-- ==== Sys2Proof/Word.lean ====
section
/-! DEFINITION. The word types of the block (rules R6, R7): registers and bus data are 32 bits, a field of a
control word is 8 bits, the output bits of a port are 16 bits, a configuration slot is 4 bits. -/

namespace Sys2Proof

/-- A register or a bus datum: `REGW` = 32 bits (rule R6). Bit 0 is the least significant bit (rule R7). -/
abbrev Word := BitVec 32

/-- The stored bits of ODATA: one output bit for each of the 16 pins of a port (rule R19). -/
abbrev Half := BitVec 16

/-- One of the four byte-wide fields of a control word (rule R70). -/
abbrev Byte := BitVec 8

/-- The content of one configuration slot: `SLOTW` = 4 bits (rules R6, R15). -/
abbrev Nibble := BitVec 4

/-- A legal pin index, 0 to 15 (rule R6, `NPINS`). -/
abbrev Pin := Fin 16

end Sys2Proof
end

