-- ==== Sys2Proof/Config.lean ====
section
/-! DEFINITION. What is fixed for one machine: the names of the ports and registers, the parameters of the block
(rule R6), and the free values that the spec leaves open (`draw32()` of rule R8, the OPEN reset contents of rule
R29). A free value is an opaque constant: nothing can be proved of the number it is. -/

namespace Sys2Proof

/-- The three port instances A, B, C (rule R10). -/
inductive Port where
  | A | B | C
deriving DecidableEq, Repr

/-- The port number of the command word: 0, 1, 2 (rules R10, R71). -/
def Port.code : Port → Byte
  | .A => 0
  | .B => 1
  | .C => 2

/-- The seven registers of a register block (rule R11). -/
inductive Reg where
  | cfglo | cfghi | idata | odata | setrst | rstonly | lock
deriving DecidableEq, Repr

/-- Where a value that the spec leaves open is drawn (`draw32()`, rule R8): the read of IDATA (R20), of SETRST (R17)
or of RSTONLY (R18), and the bits of a SETRST write whose set and reset bits are both 1, under the setting `any` of
`BSR_CONFLICT` (R17). -/
inductive DrawSite where
  | idata (p : Port)
  | setrst (p : Port)
  | rstonly (p : Port)
  | conflict (p : Port)
deriving DecidableEq, Repr

/-- The parameter `BSR_CONFLICT` (rules R6, R17): the result where one SETRST write has bit N and bit N+16 both 1. -/
inductive BsrConflict where
  | setWins | resetWins | any
deriving DecidableEq, Repr

/-- The parameter `FAST_RESET_WORD` (rules R6, R120): the word RUNFAST writes to RSTONLY, either the stored off mask
or a fixed word. -/
inductive FastResetWord where
  | offMask
  | fixed (w : Word)
deriving DecidableEq, Repr

/-- The parameter `PORT_BASE` (rules R6, R41): the byte address of the first register of each port. -/
structure Bases where
  a : Word
  b : Word
  c : Word
deriving DecidableEq, Repr

/-- `PORT_BASE[p]`. -/
def Bases.get (b : Bases) : Port → Word
  | .A => b.a
  | .B => b.b
  | .C => b.c

/-- The parameter `DIAG_PORT_ORDER` (rules R6, R121): the order of the ports inside each phase of RUNDIAG. -/
structure PortOrder where
  first : Port
  second : Port
  third : Port
deriving DecidableEq, Repr

/-- The parameters of the block (rule R6) that a rule reads. They ride in the state as plain data that no step
changes, so that a claim over all states is a claim over all their values; `BYTE_ORDER` is not among them because no
rule depends on it (R45), and the parameter `INTERFERER` is the field `turns` of the state. -/
structure Params where
  /-- `PORT_BASE`, OPEN. -/
  portBase : Bases
  /-- `BSR_CONFLICT`. -/
  bsrConflict : BsrConflict
  /-- `CHECKED`: whether a pin out of range and use before INIT are reported (R135). -/
  checked : Bool
  /-- `FAST_RESET_WORD`. -/
  fastResetWord : FastResetWord
  /-- `DIAG_RESET_WORD`. -/
  diagResetWord : Word
  /-- `DIAG_SET_WORD`. -/
  diagSetWord : Word
  /-- `DIAG_PORT_ORDER`. -/
  diagOrder : PortOrder
deriving DecidableEq, Repr

/-- The block starting at `x` and the block starting at `y` do not meet: each base is at least 28 bytes past the
other, counted around the 32-bit address space. -/
abbrev Bases.Apart (x y : Word) : Prop := 28 ≤ (y - x).toNat ∧ 28 ≤ (x - y).toNat

/-- The constraint on `PORT_BASE` (rules R6, R41, decision D26): each base a multiple of 4, the three 28-byte spans
pairwise disjoint. -/
abbrev Bases.Legal (b : Bases) : Prop :=
  (b.a.toNat % 4 = 0 ∧ b.b.toNat % 4 = 0 ∧ b.c.toNat % 4 = 0) ∧
    Bases.Apart b.a b.b ∧ Bases.Apart b.a b.c ∧ Bases.Apart b.b b.c

/-- `draw32()` (rule R8): an unconstrained 32-bit value, chosen anew at each use. The number is the draw counter of
the state. FREE VALUE (log entry 4). -/
opaque Config.draw32 : DrawSite → Nat → Word

/-- `RESET_CFGLO[p]`, OPEN (rules R6, R29). FREE VALUE (log entry 5). -/
opaque Config.resetCfglo : Port → Word

/-- `RESET_CFGHI[p]`, OPEN (rules R6, R29). FREE VALUE (log entry 5). -/
opaque Config.resetCfghi : Port → Word

/-- `RESET_ODATA[p]`, OPEN, bits 31:16 zero (rules R6, R29). FREE VALUE (log entry 5). -/
opaque Config.resetOdata : Port → Half

/-- What `drv.ref` holds before INIT writes it: rule R29 gives it no value. FREE VALUE (log entry 6). -/
opaque Config.resetRef : Word

/-- What `drv.off_mask` holds before INIT writes it. FREE VALUE (log entry 6). -/
opaque Config.resetOffMask : Word

/-- What `drv.on_mask` holds before INIT writes it. FREE VALUE (log entry 6). -/
opaque Config.resetOnMask : Word

/-- What `drv.t` holds before the first read micro-step writes it. FREE VALUE (log entry 6). -/
opaque Config.resetT : Word

/-- What the interferer's own latch holds before its first read. FREE VALUE (log entry 10). -/
opaque Config.resetOtherT : Word

end Sys2Proof
end

