-- ==== Sys2Proof/Syntax.lean ====
section
/-! DEFINITION. The commands: one constructor of `Instr` for each row of the opcode table (rule R72), with the fields
of the control word that the row leaves free, each a byte wide as rule R70 has them, so that the operand values the
source leaves undefined stay statable. -/

namespace Sys2Proof

/-- A command as it reaches the driver (rule R70): the control word and the separate data operand. -/
structure Command where
  cw : Word
  wdata : Word
deriving DecidableEq, Repr

/-- The 22 commands (rule R72). `port`, `pin` and `cfg` are the raw fields of the control word; the legal values are
in WellFormed. -/
inductive Instr where
  /-- AT port (R81) -/
  | atPort (port : Byte)
  /-- RD.CFGLO port (R82) -/
  | rdCfglo (port : Byte)
  /-- RD.CFGHI port (R83) -/
  | rdCfghi (port : Byte)
  /-- RD.IDATA port (R84) -/
  | rdIdata (port : Byte)
  /-- RD.ODATA port (R85) -/
  | rdOdata (port : Byte)
  /-- RD.SETRST port (R86) -/
  | rdSetrst (port : Byte)
  /-- RD.RSTONLY port (R87) -/
  | rdRstonly (port : Byte)
  /-- RD.LOCK port (R88) -/
  | rdLock (port : Byte)
  /-- WR.CFGLO port, data (R89) -/
  | wrCfglo (port : Byte) (wdata : Word)
  /-- WR.CFGHI port, data (R90) -/
  | wrCfghi (port : Byte) (wdata : Word)
  /-- WR.IDATA port, data (R91) -/
  | wrIdata (port : Byte) (wdata : Word)
  /-- WR.ODATA port, data (R92) -/
  | wrOdata (port : Byte) (wdata : Word)
  /-- WR.SETRST port, data (R93) -/
  | wrSetrst (port : Byte) (wdata : Word)
  /-- WR.RSTONLY port, data (R94) -/
  | wrRstonly (port : Byte) (wdata : Word)
  /-- WR.LOCK port, data (R95) -/
  | wrLock (port : Byte) (wdata : Word)
  /-- CFGPIN port, pin, cfg (R100) -/
  | cfgpin (port pin cfg : Byte)
  /-- CFGALL port, cfg (R102) -/
  | cfgall (port cfg : Byte)
  /-- INIT port, pin (R110) -/
  | initPin (port pin : Byte)
  /-- SETON (R111) -/
  | seton
  /-- SETOFF (R112) -/
  | setoff
  /-- RUNFAST (R120) -/
  | runfast
  /-- RUNDIAG (R121) -/
  | rundiag
deriving DecidableEq, Repr

/-- The port field of a command that has one (rule R72). -/
def Instr.port? : Instr → Option Byte
  | .atPort port | .rdCfglo port | .rdCfghi port | .rdIdata port | .rdOdata port | .rdSetrst port
  | .rdRstonly port | .rdLock port => some port
  | .wrCfglo port _ | .wrCfghi port _ | .wrIdata port _ | .wrOdata port _ | .wrSetrst port _
  | .wrRstonly port _ | .wrLock port _ => some port
  | .cfgpin port _ _ => some port
  | .cfgall port _ => some port
  | .initPin port _ => some port
  | .seton | .setoff | .runfast | .rundiag => none

/-- The pin field of a command that has one. -/
def Instr.pin? : Instr → Option Byte
  | .cfgpin _ pin _ => some pin
  | .initPin _ pin => some pin
  | .atPort _ | .rdCfglo _ | .rdCfghi _ | .rdIdata _ | .rdOdata _ | .rdSetrst _ | .rdRstonly _ | .rdLock _ => none
  | .wrCfglo _ _ | .wrCfghi _ _ | .wrIdata _ _ | .wrOdata _ _ | .wrSetrst _ _ | .wrRstonly _ _
  | .wrLock _ _ => none
  | .cfgall _ _ | .seton | .setoff | .runfast | .rundiag => none

/-- The PinConfig field of a command that has one. -/
def Instr.cfg? : Instr → Option Byte
  | .cfgpin _ _ cfg => some cfg
  | .cfgall _ cfg => some cfg
  | .atPort _ | .rdCfglo _ | .rdCfghi _ | .rdIdata _ | .rdOdata _ | .rdSetrst _ | .rdRstonly _ | .rdLock _ => none
  | .wrCfglo _ _ | .wrCfghi _ _ | .wrIdata _ _ | .wrOdata _ _ | .wrSetrst _ _ | .wrRstonly _ _
  | .wrLock _ _ => none
  | .initPin _ _ | .seton | .setoff | .runfast | .rundiag => none

/-- The data operand of a WR.x command (rule R70: only those read `wdata`). -/
def Instr.wdata? : Instr → Option Word
  | .wrCfglo _ w | .wrCfghi _ w | .wrIdata _ w | .wrOdata _ w | .wrSetrst _ w | .wrRstonly _ w
  | .wrLock _ w => some w
  | .atPort _ | .rdCfglo _ | .rdCfghi _ | .rdIdata _ | .rdOdata _ | .rdSetrst _ | .rdRstonly _ | .rdLock _ => none
  | .cfgpin _ _ _ | .cfgall _ _ | .initPin _ _ | .seton | .setoff | .runfast | .rundiag => none

/-- The number of micro-steps of one execution of a command (rule R25): 1 for AT, RD.x, WR.x, SETON, SETOFF, 2 for
CFGPIN and INIT, 32 for CFGALL; for the two loops, the length of one iteration, after which `u` is 0 again. -/
def Instr.microSteps : Instr → Nat
  | .atPort _ | .rdCfglo _ | .rdCfghi _ | .rdIdata _ | .rdOdata _ | .rdSetrst _ | .rdRstonly _ | .rdLock _ => 1
  | .wrCfglo _ _ | .wrCfghi _ _ | .wrIdata _ _ | .wrOdata _ _ | .wrSetrst _ _ | .wrRstonly _ _
  | .wrLock _ _ => 1
  | .cfgpin _ _ _ => 2
  | .cfgall _ _ => 32
  | .initPin _ _ => 2
  | .seton => 1
  | .setoff => 1
  | .runfast => 2
  | .rundiag => 6

/-- The commands that read the stored reference and masks, and so need INIT first (rules R22, R152). -/
def Instr.needsInit : Instr → Bool
  | .seton | .setoff | .runfast => true
  | .atPort _ | .rdCfglo _ | .rdCfghi _ | .rdIdata _ | .rdOdata _ | .rdSetrst _ | .rdRstonly _ | .rdLock _ => false
  | .wrCfglo _ _ | .wrCfghi _ _ | .wrIdata _ _ | .wrOdata _ _ | .wrSetrst _ _ | .wrRstonly _ _
  | .wrLock _ _ => false
  | .cfgpin _ _ _ | .cfgall _ _ | .initPin _ _ | .rundiag => false

end Sys2Proof
end

