-- ==== Sys2Proof/WellFormed.lean ====
section
/-! DEFINITION. The operand preconditions of the source, as a check on a command (rules R71, R131): a port operand
names one of the three ports, a pin operand is 0 to 15, a PinConfig operand fits 4 bits. A command that fails the
check still decodes (rule R71); what it does is in the meanings. -/

namespace Sys2Proof

/-- A port operand that names a port (rule R71: 0, 1, 2). -/
def legalPort (port : Byte) : Bool := port.toNat < 3

/-- A pin operand in 0 to 15 (rule R71). -/
def legalPin (pin : Byte) : Bool := pin.toNat < 16

/-- A PinConfig operand that fits 4 bits (rules R15, R71). -/
def legalCfg (cfg : Byte) : Bool := cfg.toNat < 16

/-- All operands of the command are legal. -/
def Instr.wellFormed (i : Instr) : Bool :=
  i.port?.all legalPort && i.pin?.all legalPin && i.cfg?.all legalCfg

end Sys2Proof
end

