-- ==== Sys2Proof/Decode.lean ====
section
/-! DEFINITION. The command word CMD32 (rules R70 to R74): the decoder, total on any command and rejecting reserved
words by name, the encoder, the opcode table of rule R72 as data, and the reading of a table word as a command. -/

namespace Sys2Proof

/-- What the decoder answers for a control word that selects no row of the opcode table (rules R72, R132). -/
inductive DecodeError where
  | illegalCommand (cw : Word)
deriving DecidableEq, Repr

/-- `cw[31:24]` (rule R70). -/
def opField (cw : Word) : Byte := cw.extractLsb' 24 8

/-- `cw[23:16]` (rule R70). -/
def portField (cw : Word) : Byte := cw.extractLsb' 16 8

/-- `cw[15:8]` (rule R70). -/
def selField (cw : Word) : Byte := cw.extractLsb' 8 8

/-- `cw[7:0]` (rule R70). -/
def cfgField (cw : Word) : Byte := cw.extractLsb' 0 8

/-- RD.x by register index (rule R72); an index of 7 or more is reserved. -/
def decodeRead (port sel : Byte) : Option Instr :=
  match sel.toNat with
  | 0 => some (.rdCfglo port)
  | 1 => some (.rdCfghi port)
  | 2 => some (.rdIdata port)
  | 3 => some (.rdOdata port)
  | 4 => some (.rdSetrst port)
  | 5 => some (.rdRstonly port)
  | 6 => some (.rdLock port)
  | _ => none

/-- WR.x by register index (rule R72); an index of 7 or more is reserved. -/
def decodeWrite (port sel : Byte) (wdata : Word) : Option Instr :=
  match sel.toNat with
  | 0 => some (.wrCfglo port wdata)
  | 1 => some (.wrCfghi port wdata)
  | 2 => some (.wrIdata port wdata)
  | 3 => some (.wrOdata port wdata)
  | 4 => some (.wrSetrst port wdata)
  | 5 => some (.wrRstonly port wdata)
  | 6 => some (.wrLock port wdata)
  | _ => none

/-- The command, where the fields it does not use are zero (rule R70). -/
def unusedZero (unused : Bool) (i : Option Instr) : Option Instr := if unused then i else none

/-- The opcode map of rule R72, field by field. -/
def decodeFields (op port sel cfg : Byte) (wdata : Word) : Option Instr :=
  match op.toNat with
  | 0x01 => unusedZero (sel == 0 && cfg == 0) (some (.atPort port))
  | 0x02 => unusedZero (cfg == 0) (decodeRead port sel)
  | 0x03 => unusedZero (cfg == 0) (decodeWrite port sel wdata)
  | 0x04 => some (.cfgpin port sel cfg)
  | 0x05 => unusedZero (sel == 0) (some (.cfgall port cfg))
  | 0x06 => unusedZero (cfg == 0) (some (.initPin port sel))
  | 0x07 => unusedZero (port == 0 && sel == 0 && cfg == 0) (some .seton)
  | 0x08 => unusedZero (port == 0 && sel == 0 && cfg == 0) (some .setoff)
  | 0x09 => unusedZero (port == 0 && sel == 0 && cfg == 0) (some .runfast)
  | 0x0A => unusedZero (port == 0 && sel == 0 && cfg == 0) (some .rundiag)
  | _ => none

/-- The decoder (rules R70 to R72): a reserved control word is refused as `IllegalCommand`. -/
def decode (c : Command) : Except DecodeError Instr :=
  match decodeFields (opField c.cw) (portField c.cw) (selField c.cw) (cfgField c.cw) c.wdata with
  | some i => .ok i
  | none => .error (.illegalCommand c.cw)

/-- A control word from its four fields, `op` highest (rule R70). -/
def controlWord (op port sel cfg : Byte) : Word := (op ++ port ++ sel ++ cfg : BitVec (8 + 8 + 8 + 8))

/-- The command of an instruction (rules R70, R72): a field that the command does not use is zero. A command that
reads no data operand is given a data operand of zero. -/
def encode : Instr → Command
  | .atPort port => ⟨controlWord 0x01 port 0 0, 0⟩
  | .rdCfglo port => ⟨controlWord 0x02 port 0 0, 0⟩
  | .rdCfghi port => ⟨controlWord 0x02 port 1 0, 0⟩
  | .rdIdata port => ⟨controlWord 0x02 port 2 0, 0⟩
  | .rdOdata port => ⟨controlWord 0x02 port 3 0, 0⟩
  | .rdSetrst port => ⟨controlWord 0x02 port 4 0, 0⟩
  | .rdRstonly port => ⟨controlWord 0x02 port 5 0, 0⟩
  | .rdLock port => ⟨controlWord 0x02 port 6 0, 0⟩
  | .wrCfglo port wdata => ⟨controlWord 0x03 port 0 0, wdata⟩
  | .wrCfghi port wdata => ⟨controlWord 0x03 port 1 0, wdata⟩
  | .wrIdata port wdata => ⟨controlWord 0x03 port 2 0, wdata⟩
  | .wrOdata port wdata => ⟨controlWord 0x03 port 3 0, wdata⟩
  | .wrSetrst port wdata => ⟨controlWord 0x03 port 4 0, wdata⟩
  | .wrRstonly port wdata => ⟨controlWord 0x03 port 5 0, wdata⟩
  | .wrLock port wdata => ⟨controlWord 0x03 port 6 0, wdata⟩
  | .cfgpin port pin cfg => ⟨controlWord 0x04 port pin cfg, 0⟩
  | .cfgall port cfg => ⟨controlWord 0x05 port 0 cfg, 0⟩
  | .initPin port pin => ⟨controlWord 0x06 port pin 0, 0⟩
  | .seton => ⟨controlWord 0x07 0 0 0, 0⟩
  | .setoff => ⟨controlWord 0x08 0 0 0, 0⟩
  | .runfast => ⟨controlWord 0x09 0 0 0, 0⟩
  | .rundiag => ⟨controlWord 0x0A 0 0 0, 0⟩

/-- The mnemonic of a command (rule R72). -/
def Instr.mnemonic : Instr → String
  | .atPort _ => "AT"
  | .rdCfglo _ => "RD.CFGLO"
  | .rdCfghi _ => "RD.CFGHI"
  | .rdIdata _ => "RD.IDATA"
  | .rdOdata _ => "RD.ODATA"
  | .rdSetrst _ => "RD.SETRST"
  | .rdRstonly _ => "RD.RSTONLY"
  | .rdLock _ => "RD.LOCK"
  | .wrCfglo _ _ => "WR.CFGLO"
  | .wrCfghi _ _ => "WR.CFGHI"
  | .wrIdata _ _ => "WR.IDATA"
  | .wrOdata _ _ => "WR.ODATA"
  | .wrSetrst _ _ => "WR.SETRST"
  | .wrRstonly _ _ => "WR.RSTONLY"
  | .wrLock _ _ => "WR.LOCK"
  | .cfgpin _ _ _ => "CFGPIN"
  | .cfgall _ _ => "CFGALL"
  | .initPin _ _ => "INIT"
  | .seton => "SETON"
  | .setoff => "SETOFF"
  | .runfast => "RUNFAST"
  | .rundiag => "RUNDIAG"

/-- A row of the opcode table: a control word selects it when `cw AND mask = match` (rule R72). -/
structure OpcodeRow where
  mnemonic : String
  pattern : Word
  mask : Word
deriving DecidableEq, Repr

/-- The control word selects the row (rule R72). -/
def OpcodeRow.selects (r : OpcodeRow) (cw : Word) : Bool := cw &&& r.mask == r.pattern

/-- The table of rule R72, row by row. -/
def opcodeTable : List OpcodeRow :=
  [ ⟨"AT", 0x01000000, 0xFF00FFFF⟩,
    ⟨"RD.CFGLO", 0x02000000, 0xFF00FFFF⟩,
    ⟨"RD.CFGHI", 0x02000100, 0xFF00FFFF⟩,
    ⟨"RD.IDATA", 0x02000200, 0xFF00FFFF⟩,
    ⟨"RD.ODATA", 0x02000300, 0xFF00FFFF⟩,
    ⟨"RD.SETRST", 0x02000400, 0xFF00FFFF⟩,
    ⟨"RD.RSTONLY", 0x02000500, 0xFF00FFFF⟩,
    ⟨"RD.LOCK", 0x02000600, 0xFF00FFFF⟩,
    ⟨"WR.CFGLO", 0x03000000, 0xFF00FFFF⟩,
    ⟨"WR.CFGHI", 0x03000100, 0xFF00FFFF⟩,
    ⟨"WR.IDATA", 0x03000200, 0xFF00FFFF⟩,
    ⟨"WR.ODATA", 0x03000300, 0xFF00FFFF⟩,
    ⟨"WR.SETRST", 0x03000400, 0xFF00FFFF⟩,
    ⟨"WR.RSTONLY", 0x03000500, 0xFF00FFFF⟩,
    ⟨"WR.LOCK", 0x03000600, 0xFF00FFFF⟩,
    ⟨"CFGPIN", 0x04000000, 0xFF000000⟩,
    ⟨"CFGALL", 0x05000000, 0xFF00FF00⟩,
    ⟨"INIT", 0x06000000, 0xFF0000FF⟩,
    ⟨"SETON", 0x07000000, 0xFFFFFFFF⟩,
    ⟨"SETOFF", 0x08000000, 0xFFFFFFFF⟩,
    ⟨"RUNFAST", 0x09000000, 0xFFFFFFFF⟩,
    ⟨"RUNDIAG", 0x0A000000, 0xFFFFFFFF⟩ ]

/-- A command from its bits, numbered as the opcode table numbers them: the control word is bits 31:0, the data
operand bits 63:32; the bits from `nbits` up are 0. -/
def commandOfBits (nbits w : Nat) : Command :=
  ⟨BitVec.ofNat 32 (w % 2 ^ nbits), BitVec.ofNat 32 (w % 2 ^ nbits / 2 ^ 32)⟩

/-- The instruction the decoder reads from an instruction whose bits are `w`. -/
def decodeTableWord (nbits w : Nat) : Option Instr :=
  match decode (commandOfBits nbits w) with
  | .ok i => some i
  | .error _ => none

end Sys2Proof
end

