-- ==== Sys2Proof/Machine/Params.lean ====
section
/-! DEFINITION. The values of the parameters of rule R6 for this hardware, and the constants of rule R6 that are no
parameter. -/

namespace Sys2Proof.Machine

/-- The suggested default of `PORT_BASE` (rule R6, decision D4). The parameter itself is OPEN: only `State.reset`
takes this value (log entry 2). PRESUMED. -/
def suggestedBases : Bases := ⟨0x40010800, 0x40010C00, 0x40011000⟩

/-- The parameter values of this hardware (rule R6): `BSR_CONFLICT = set_wins`, `CHECKED = false`,
`FAST_RESET_WORD = off_mask`, both diagnostic words 0x0000FFFF, port order A, B, C; `PORT_BASE` as given. -/
def hardwareParams (bases : Bases) : Params :=
  { portBase := bases
    bsrConflict := .setWins
    checked := false
    fastResetWord := .offMask
    diagResetWord := 0x0000FFFF
    diagSetWord := 0x0000FFFF
    diagOrder := ⟨.A, .B, .C⟩ }

/-- `DEFAULT_CFG` (rules R6, R110): output 50 MHz, push-pull. -/
def defaultCfg : Nibble := 0x3

end Sys2Proof.Machine
end

