-- ==== Sys2Proof/Machine/Blocks.lean ====
section
/-! DEFINITION. The pieces of the machine's state: a register block, the three of them, the driver's stored values,
the response of the command interface, a bus transaction, the turns of the two agents; and what each piece holds at
reset. -/

namespace Sys2Proof.Machine

/-- One port's register block (rules R11 to R21). SETRST and RSTONLY store nothing (R17, R18) and IDATA is an input
with no stored value (R20), so they have no field. -/
structure PortBlock where
  /-- CFGLO, 32 bits (R13). -/
  cfglo : Word
  /-- CFGHI, 32 bits (R14). -/
  cfghi : Word
  /-- ODATA, the 16 bits that exist (R19). -/
  odata : Half
  /-- LOCK: whether a configuration slot of the port is locked. Its register has no other behaviour (R21). -/
  locked : Bool
  /-- The premise `clocked(p)`: the port's peripheral clock is online (R151). -/
  clocked : Bool
deriving DecidableEq, Repr

/-- The three register blocks (rule R10). -/
structure Ports where
  a : PortBlock
  b : PortBlock
  c : PortBlock
deriving DecidableEq, Repr

/-- The block of a port. -/
def Ports.get (ps : Ports) : Port → PortBlock
  | .A => ps.a
  | .B => ps.b
  | .C => ps.c

/-- The blocks with one port's block replaced. -/
def Ports.set (ps : Ports) (p : Port) (k : PortBlock) : Ports :=
  match p with
  | .A => { ps with a := k }
  | .B => { ps with b := k }
  | .C => { ps with c := k }

/-- The driver's stored state (rules R22 to R24). -/
structure Driver where
  /-- `drv.ref`, the base address of the selected port. -/
  ref : Word
  /-- `drv.off_mask` (R23). -/
  offMask : Word
  /-- `drv.on_mask` (R23). -/
  onMask : Word
  /-- `drv.inited`: INIT has completed. -/
  inited : Bool
  /-- `drv.t`, the latch between the read and the write of one read-modify-write (R24). -/
  t : Word
deriving DecidableEq, Repr

/-- The two conditions that a checked implementation reports (rule R135). -/
inductive Report where
  /-- "out-of-range pin index" -/
  | outOfRangePinIndex
  /-- "driver not initialized" -/
  | driverNotInitialized
deriving DecidableEq, Repr

/-- What the command interface shows of the last completed command (rules R8, R81, decision D1): `done`, `done(v)`,
or a reported condition (R135). -/
inductive Response where
  | none
  | value (v : Word)
  | reported (r : Report)
deriving DecidableEq, Repr

/-- The direction of a bus transaction (rule R57). -/
inductive Direction where
  | read | write
deriving DecidableEq, Repr

/-- One bus transaction (rules R30, R57): direction, 32-bit byte address, 32 bits of data. -/
structure Transaction where
  dir : Direction
  addr : Word
  data : Word
deriving DecidableEq, Repr

/-- One event of the interfering agent (rules R5, R49, R51): a 32-bit read into its own latch, a 32-bit write, or the
write half of its own read-modify-write: its latch with the bits outside `keep` dropped and `bits` put in. -/
inductive OtherEvent where
  | read (addr : Word)
  | write (addr data : Word)
  | modify (addr keep bits : Word)
deriving DecidableEq, Repr

/-- Who moves at a step (rule R49: the events of the two agents interleave in some total order). -/
inductive Turn where
  | driver
  | other (e : OtherEvent)
deriving DecidableEq, Repr

/-- A register block at reset (rules R29, R150): CFGLO, CFGHI and ODATA hold the OPEN reset contents, nothing is
locked; the clock is online by the premise of rule R151 (log entries 5, 8, 9). -/
def resetBlock (p : Port) : PortBlock :=
  { cfglo := Config.resetCfglo p
    cfghi := Config.resetCfghi p
    odata := Config.resetOdata p
    locked := false
    clocked := true }

/-- The driver at reset (rule R29): not initialised; the other four fields hold free values (log entry 6). -/
def resetDriver : Driver :=
  { ref := Config.resetRef
    offMask := Config.resetOffMask
    onMask := Config.resetOnMask
    inited := false
    t := Config.resetT }

end Sys2Proof.Machine
end

