-- ==== Sys2Proof/Machine/State.lean ====
section
/-! DEFINITION. The state of the machine as plain data, the reasons a step can stop, and the state after reset. -/

namespace Sys2Proof.Machine

/-- The reasons a run stops outside the preconditions of the source (rule R131). A fault is raised before the command
has any effect, so the state is the one before the step; the outcome itself is the fault mark of rule R131. -/
inductive Fault where
  /-- Raised by a command whose port operand is above 2 (R131 case 1); records the operand. Safe: the source leaves
  the behaviour undefined. -/
  | invalidBase (port : Byte)
  /-- Raised by CFGPIN and INIT with a pin operand above 15 (R131 case 2), where `CHECKED` is false; records the
  operand. Safe. -/
  | pinOutOfRange (pin : Byte)
  /-- Raised by CFGPIN and CFGALL with a PinConfig operand above 0xF (R131 case 3); records the operand. Safe. -/
  | configOutOfRange (cfg : Byte)
  /-- Raised by SETON, SETOFF and RUNFAST while `drv.inited = 0` (R131 case 4), where `CHECKED` is false. Safe. -/
  | notInitialized
  /-- Raised by a bus access to an address that is not one of the 21 register words (R42, U4); records the address.
  The driver of a machine that meets the invariant never raises it. Safe. -/
  | unmappedAddress (addr : Word)
  /-- Raised by a command at a micro-step it does not have (R25 gives it no such micro-step); records `u`. No run
  reaches it. Safe. -/
  | noSuchMicroStep (u : Nat)
deriving DecidableEq, Repr

/-- The reasons a step has no meaning (rules R8, R132): nothing is performed, and the outcome itself is the refusal
mark. -/
inductive Refusal where
  /-- An instruction that is not modelled yet; raised by `exec`'s arms only, and by none of them now. Safe. -/
  | notModelled (mnemonic : String)
  /-- Raised by the driver for a control word that selects no row of the opcode table (R72, R132). Safe. -/
  | illegalCommand (cw : Word)
  /-- Raised by RD.LOCK and WR.LOCK, and by any access to a LOCK register (R21, R88, R95). Safe. -/
  | lockNotModelled
  /-- Raised by WR.IDATA, and by any write to an IDATA register (R20, R91). Safe. -/
  | writeToInputData
  /-- Raised by an access of another width than 4 bytes (R43, U14); records the width. No command makes one. Safe. -/
  | accessWidth (bytes : Nat)
  /-- Raised by an access to an address that is no multiple of 4 (R44, U14). Safe. -/
  | misaligned (addr : Word)
  /-- Raised by an access to a port outside the premise `clocked(p)`: without it the spec says nothing (R151, U15).
  Safe. -/
  | portNotClocked (p : Port)
  /-- Raised by an access to a port outside the premise that no slot is locked (R21, R104). Safe. -/
  | portLocked (p : Port)
  /-- Raised by the driver when the command stream holds no command at `cp`: the run has ended (R25). Safe. -/
  | endOfStream
deriving DecidableEq, Repr

/-- The whole state (file 10_state.md). The first four groups are the spec's; the last holds what the spec gives to
the environment of a run or leaves open. -/
structure State where
  /-- The parameters of rule R6; no step changes them. -/
  par : Params
  /-- The register blocks (R10 to R21). -/
  ports : Ports
  /-- The driver's stored state (R22 to R24). -/
  drv : Driver
  /-- `cp`, the index of the current command (R25). -/
  cp : Nat
  /-- `u`, the micro-step inside the current command (R25). -/
  u : Nat
  /-- The command stream, a parameter of the run (R25, R54); no step changes it. -/
  stream : List Command
  /-- The result port (R8, R81, D1): the response of the last completed command. -/
  result : Response
  /-- The bus transactions the driver issued, oldest first (R30). -/
  trace : List Transaction
  /-- The parameter `INTERFERER` (R6, D19): whose turn the coming steps are; when it is empty, the driver's. -/
  turns : List Turn
  /-- The interferer's latch between the read and the write of its own read-modify-write (R51). -/
  otherT : Word
  /-- THE MODEL'S OWN: how many free values have been drawn (`draw32()`, R8). -/
  draws : Nat
deriving DecidableEq, Repr

/-- The state after reset (rules R29, R150) for given parameters. -/
def resetWith (par : Params) : State :=
  { par := par
    ports := ⟨resetBlock .A, resetBlock .B, resetBlock .C⟩
    drv := resetDriver
    cp := 0
    u := 0
    stream := []
    result := .none
    trace := []
    turns := []
    otherT := Config.resetOtherT
    draws := 0 }

/-- The machine right after reset: `resetWith` at this hardware's parameters, the OPEN `PORT_BASE` at the default the
spec suggests (log entry 2). The command stream is empty: a program is loaded from outside (log entry 1). -/
def State.reset : State := resetWith (hardwareParams suggestedBases)

/-- The register block of a port. -/
def State.block (s : State) (p : Port) : PortBlock := s.ports.get p

/-- The state with one port's register block replaced. -/
def State.setBlock (s : State) (p : Port) (k : PortBlock) : State := { s with ports := s.ports.set p k }

/-- `PORT_BASE[p]`. -/
def State.base (s : State) (p : Port) : Word := s.par.portBase.get p

end Sys2Proof.Machine
end

