-- ==== Sys2Proof/Machine/Operands.lean ====
section
/-! DEFINITION. The operand forms and the bit computations of the commands: register offsets (R60), slot selection
(R65), the read-modify-write of a slot (R66), the pin masks (R69), and the effect of a word written to SETRST (R17,
R67) or to RSTONLY (R18, R68). The hardware has no flags (R26). -/

namespace Sys2Proof.Machine

/-- The index of a register in its block (rule R60). -/
def regIndex : Reg → Nat
  | .cfglo => 0
  | .cfghi => 1
  | .idata => 2
  | .odata => 3
  | .setrst => 4
  | .rstonly => 5
  | .lock => 6

/-- The register of an index; 7 and above name none (rule R60). -/
def regOfIndex : Nat → Option Reg
  | 0 => some .cfglo
  | 1 => some .cfghi
  | 2 => some .idata
  | 3 => some .odata
  | 4 => some .setrst
  | 5 => some .rstonly
  | 6 => some .lock
  | _ => none

/-- The byte offset of a register: four times its index (rules R11, R60). -/
def regOffset (r : Reg) : Word := BitVec.ofNat 32 (4 * regIndex r)

/-- The address of a register of the block that a reference points at (rule R60). -/
def regAddress (ref : Word) (r : Reg) : Word := ref + regOffset r

/-- The port of a port operand: 0, 1, 2; any other value names none (rule R71). -/
def portOf (port : Byte) : Option Port :=
  match port.toNat with
  | 0 => some .A
  | 1 => some .B
  | 2 => some .C
  | _ => none

/-- The pin of a pin operand, where it is 0 to 15 (rule R71). -/
def pinOf (pin : Byte) : Option Pin :=
  if h : pin.toNat < 16 then some ⟨pin.toNat, h⟩ else none

/-- The nibble of a PinConfig operand, where it fits 4 bits (rules R15, R71). Nothing is truncated. -/
def cfgOf (cfg : Byte) : Option Nibble :=
  if cfg.toNat < 16 then some (BitVec.ofNat 4 cfg.toNat) else none

/-- The configuration register of a pin: CFGLO for pins 0 to 7, CFGHI for pins 8 to 15 (rule R65). -/
def slotReg (n : Pin) : Reg := if n.val < 8 then .cfglo else .cfghi

/-- The slot number of a pin in its register, the index rebased by 8 for CFGHI (rule R65). -/
def slotIndex (n : Pin) : Nat := if n.val < 8 then n.val else n.val - 8

/-- The shift of a pin's slot (rule R65). -/
def slotShift (n : Pin) : Nat := slotIndex n % 8 * 4

/-- The mask of the 4-bit slot at a shift (rule R65). -/
def slotMask (sh : Nat) : Word := 0x0000000F#32 <<< sh

/-- The new content of a configuration register: the slot at the shift replaced, the rest kept (rule R66). -/
def packSlot (old : Word) (sh : Nat) (cfg : Nibble) : Word :=
  (old &&& ~~~(slotMask sh)) ||| (cfg.setWidth 32 <<< sh)

/-- `off_mask` of a pin: bit N (rules R23, R69). -/
def offMaskOf (n : Pin) : Word := 1#32 <<< n.val

/-- `on_mask` of a pin: bit N + 16 (rules R23, R69). -/
def onMaskOf (n : Pin) : Word := 1#32 <<< (n.val + 16)

/-- The low half-word (rule R7). -/
def lowHalf (v : Word) : Half := v.extractLsb' 0 16

/-- The high half-word (rule R7). -/
def highHalf (v : Word) : Half := v.extractLsb' 16 16

/-- ODATA after a write of `v` to SETRST (rule R17), for each setting of `BSR_CONFLICT`; under `any` the bits whose
set and reset bits are both 1 are those of `draw`. -/
def afterSetrst (mode : BsrConflict) (draw : Word) (old : Half) (v : Word) : Half :=
  let set := lowHalf v
  let rst := highHalf v
  match mode with
  | .setWins => (old &&& ~~~rst) ||| set
  | .resetWins => (old ||| set) &&& ~~~rst
  | .any => (((old &&& ~~~rst) ||| set) &&& ~~~(set &&& rst)) ||| (lowHalf draw &&& (set &&& rst))

/-- ODATA after a write of `v` to RSTONLY (rule R18): bits 31:16 of `v` are ignored. -/
def afterRstonly (old : Half) (v : Word) : Half := old &&& ~~~(lowHalf v)

/-- The word RUNFAST writes to RSTONLY (rule R120, parameter `FAST_RESET_WORD`). -/
def fastResetWord (par : Params) (drv : Driver) : Word :=
  match par.fastResetWord with
  | .offMask => drv.offMask
  | .fixed w => w

end Sys2Proof.Machine
end

