-- ==== Sys2Proof/Machine/Ops.lean ====
section
/-! DEFINITION. The operations the meanings share: the address decode and the two bus primitives (R8, R41), the
driver's own bus accesses (R30), completing a command and moving to the next micro-step (R25), the checks at the start
of a command (R131, R133, R135) and the fetch of the current command. The hardware raises no exception and returns
from none (R130, R134); what it has instead is `misuse`. -/

namespace Sys2Proof.Machine

/-- A computation of a step: it gives a value, or stops the step. -/
abbrev Attempt (α : Type) := Host.Outcome α Fault Refusal

/-- The second computation after the first, unless the first stops. -/
def andThen {α β : Type} (o : Attempt α) (k : α → Attempt β) : Attempt β :=
  match o with
  | .next a => k a
  | .fault f => .fault f
  | .refused r => .refused r

/-! ### The registers on the bus -/

/-- The register of the block at `base` that an address selects, if any (rules R41, R60). -/
def regAt (base addr : Word) : Option Reg :=
  let off := (addr - base).toNat
  if off % 4 = 0 then regOfIndex (off / 4) else none

/-- The register that an address selects among the 21 words (rules R40, R41). -/
def decodeAddress (bases : Bases) (addr : Word) : Option (Port × Reg) :=
  match regAt bases.a addr with
  | some r => some (.A, r)
  | none =>
    match regAt bases.b addr with
    | some r => some (.B, r)
    | none =>
      match regAt bases.c addr with
      | some r => some (.C, r)
      | none => none

/-- What an access must meet: 4 bytes wide (R43), a multiple of 4 (R44), one of the 21 words (R42), and the premises
of the port it reaches: clocked (R151) and not locked (R21). -/
def access (addr : Word) (bytes : Nat) (s : State) : Attempt (Port × Reg) :=
  if bytes ≠ 4 then .refused (.accessWidth bytes)
  else if addr.toNat % 4 ≠ 0 then .refused (.misaligned addr)
  else
    match decodeAddress s.par.portBase addr with
    | none => .fault (.unmappedAddress addr)
    | some (p, r) =>
      if (s.block p).clocked = false then .refused (.portNotClocked p)
      else if (s.block p).locked then .refused (.portLocked p)
      else .next (p, r)

/-- `draw32()`: an unconstrained value, chosen anew at each use (rule R8). -/
def draw (site : DrawSite) (s : State) : Word × State :=
  (Config.draw32 site s.draws, { s with draws := s.draws + 1 })

/-- The read rule of each register (rules R13, R14, R17 to R21). -/
def readReg (p : Port) (r : Reg) (s : State) : Attempt (Word × State) :=
  match r with
  | .cfglo => .next ((s.block p).cfglo, s)
  | .cfghi => .next ((s.block p).cfghi, s)
  | .idata => .next (draw (.idata p) s)
  | .odata => .next ((s.block p).odata.setWidth 32, s)
  | .setrst => .next (draw (.setrst p) s)
  | .rstonly => .next (draw (.rstonly p) s)
  | .lock => .refused .lockNotModelled

/-- The write of a word to SETRST (rule R17). A free value is drawn only under the setting `any`, and only for a word
that has some bit N and bit N+16 both 1. -/
def writeSetrst (p : Port) (v : Word) (s : State) : State :=
  if s.par.bsrConflict = .any ∧ lowHalf v &&& highHalf v ≠ 0 then
    let d := draw (.conflict p) s
    d.2.setBlock p { s.block p with odata := afterSetrst .any d.1 (s.block p).odata v }
  else
    s.setBlock p { s.block p with odata := afterSetrst s.par.bsrConflict 0 (s.block p).odata v }

/-- The write of a word to RSTONLY (rule R18). -/
def writeRstonly (p : Port) (v : Word) (s : State) : State :=
  s.setBlock p { s.block p with odata := afterRstonly (s.block p).odata v }

/-- The write rule of each register (rules R12 to R14, R17 to R21). -/
def writeReg (p : Port) (r : Reg) (v : Word) (s : State) : Attempt State :=
  match r with
  | .cfglo => .next (s.setBlock p { s.block p with cfglo := v })
  | .cfghi => .next (s.setBlock p { s.block p with cfghi := v })
  | .idata => .refused .writeToInputData
  | .odata => .next (s.setBlock p { s.block p with odata := lowHalf v })
  | .setrst => .next (writeSetrst p v s)
  | .rstonly => .next (writeRstonly p v s)
  | .lock => .refused .lockNotModelled

/-- `MemRead(addr, bytes)` (rules R8, R41). -/
def memRead (addr : Word) (bytes : Nat) (s : State) : Attempt (Word × State) :=
  andThen (access addr bytes s) fun a => readReg a.1 a.2 s

/-- `MemWrite(addr, bytes, v)` (rules R8, R41): the access and all its side effects are one event (R46). -/
def memWrite (addr : Word) (bytes : Nat) (v : Word) (s : State) : Attempt State :=
  andThen (access addr bytes s) fun a => writeReg a.1 a.2 v s

/-- The state with one more transaction issued by the driver (rule R30). -/
def State.issue (s : State) (x : Transaction) : State := { s with trace := s.trace ++ [x] }

/-- The driver's 32-bit read (rules R43, R49). -/
def busRead (addr : Word) (s : State) : Attempt (Word × State) :=
  andThen (memRead addr 4 s) fun r => .next (r.1, r.2.issue ⟨.read, addr, r.1⟩)

/-- The driver's 32-bit write (rules R43, R49). -/
def busWrite (addr v : Word) (s : State) : Attempt State :=
  andThen (memWrite addr 4 v s) fun s' => .next (s'.issue ⟨.write, addr, v⟩)

/-! ### The sequencer -/

/-- `done` or `done(v)`, then `cp <- cp + 1; u <- 0` (rules R8, R25). -/
def State.complete (s : State) (r : Response) : State := { s with result := r, cp := s.cp + 1, u := 0 }

/-- `u <- n` inside a command (rule R25). -/
def State.goto (s : State) (n : Nat) : State := { s with u := n }

/-- A command that takes one micro-step (rule R25): it has the micro-step 0 and no other. -/
def oneMicroStep (s : State) (k : Attempt State) : Attempt State :=
  if s.u = 0 then k else .fault (.noSuchMicroStep s.u)

/-! ### The checks at the start of a command -/

/-- A violated precondition for which the source defines a report (rule R135): with `CHECKED` false, the fault; with
`CHECKED` true, the condition is reported, the command has no effect, and the next command follows. -/
def misuse (f : Fault) (r : Report) (s : State) : Attempt State :=
  if s.par.checked then .next (s.complete (.reported r)) else .fault f

/-- `if port > 2 then raise Undefined(InvalidBase)` (rules R80, R131). -/
def withPort (port : Byte) (k : Port → Attempt State) : Attempt State :=
  match portOf port with
  | some p => k p
  | none => .fault (.invalidBase port)

/-- `if pin > 15 then raise Undefined(PinOutOfRange)` (rules R131, R135). -/
def withPin (pin : Byte) (s : State) (k : Pin → Attempt State) : Attempt State :=
  match pinOf pin with
  | some n => k n
  | none => misuse (.pinOutOfRange pin) .outOfRangePinIndex s

/-- `if cfg > 0xF then raise Undefined(ConfigOutOfRange)` (rule R131). -/
def withCfg (cfg : Byte) (k : Nibble → Attempt State) : Attempt State :=
  match cfgOf cfg with
  | some c => k c
  | none => .fault (.configOutOfRange cfg)

/-- `if drv.inited = 0 then raise Undefined(NotInitialized)` (rules R131, R135). -/
def whenInited (s : State) (k : Attempt State) : Attempt State :=
  if s.drv.inited then k else misuse .notInitialized .driverNotInitialized s

/-! ### The read-modify-write of a configuration slot -/

/-- The address of the configuration register that holds a pin's slot, in the block at `ref` (rules R65, R100). -/
def slotAddress (ref : Word) (n : Pin) : Word := regAddress ref (slotReg n)

/-- The state with `drv.t` set (rule R24). -/
def State.latch (s : State) (v : Word) : State := { s with drv := { s.drv with t := v } }

/-- The read micro-step: `drv.t <- MemRead(ref + off, 4)`, then the next micro-step (rules R24, R100). -/
def slotRead (ref : Word) (n : Pin) (s : State) : Attempt State :=
  andThen (busRead (slotAddress ref n) s) fun r => .next ((r.2.latch r.1).goto (s.u + 1))

/-- The write micro-step: `MemWrite(ref + off, 4, new)` with `new` made from `drv.t` (rules R66, R100). -/
def slotWrite (ref : Word) (n : Pin) (c : Nibble) (s : State) : Attempt State :=
  busWrite (slotAddress ref n) (packSlot s.drv.t (slotShift n) c) s

/-! ### The current command, and the other agent -/

/-- The command at `cp` (rule R25): none when the run has ended. -/
def State.fetch (s : State) : Option Command := s.stream[s.cp]?

/-- The current instruction, where there is a command at `cp` and it decodes. -/
def State.current (s : State) : Option Instr :=
  match s.fetch with
  | none => none
  | some c =>
    match decode c with
    | .ok i => some i
    | .error _ => none

/-- A command stream with a command placed at an index; places before it that do not exist are filled with the
reserved control word 0. -/
def placeCommand (c : Command) : Nat → List Command → List Command
  | 0, [] => [c]
  | 0, _ :: cs => c :: cs
  | n + 1, [] => ⟨0, 0⟩ :: placeCommand c n []
  | n + 1, d :: cs => d :: placeCommand c n cs

/-- One event of the interferer (rules R49, R51): an access of the same bus, atomic, no transaction of the driver. -/
def otherEvent (e : OtherEvent) (s : State) : Attempt State :=
  match e with
  | .read addr => andThen (memRead addr 4 s) fun r => .next { r.2 with otherT := r.1 }
  | .write addr data => memWrite addr 4 data s
  | .modify addr keep bits => memWrite addr 4 ((s.otherT &&& keep) ||| bits) s

end Sys2Proof.Machine
end

