-- ==== Sys2Proof/Machine/LevelControl.lean ====
section
/-! DEFINITION. The pin level control commands INIT, SETON, SETOFF (rules R110 to R116). -/

namespace Sys2Proof.Machine

/-- `drv.ref <- ref` (rule R110). -/
def State.select (s : State) (ref : Word) : State := { s with drv := { s.drv with ref := ref } }

/-- The masks of a pin stored, and `drv.inited <- 1` (rule R110). -/
def State.storeMasks (s : State) (n : Pin) : State :=
  { s with drv := { s.drv with offMask := offMaskOf n, onMask := onMaskOf n, inited := true } }

/-- INIT (rule R110): micro-step 0 selects the port and reads the configuration register of the pin, micro-step 1
writes it back with the default PinConfig in the pin's slot, then stores the masks. It runs again in full when the
driver is already initialised (decision D17). -/
def execInit (port pin : Byte) (s : State) : Attempt State :=
  withPort port fun p => withPin pin s fun n =>
    match s.u with
    | 0 => slotRead (s.base p) n (s.select (s.base p))
    | 1 =>
      andThen (slotWrite s.drv.ref n defaultCfg s) fun s' => .next ((s'.storeMasks n).complete .none)
    | u => .fault (.noSuchMicroStep u)

/-- A level-set command: one write of a word to SETRST of the selected port (rules R111, R112). -/
def levelCommand (word : Word) (s : State) : Attempt State :=
  oneMicroStep s <| whenInited s <|
    andThen (busWrite (regAddress s.drv.ref .setrst) word s) fun s' => .next (s'.complete .none)

/-- SETON (rule R111): the on mask, in the high half-word, clears the pin's output bit. -/
def execSeton (s : State) : Attempt State := levelCommand s.drv.onMask s

/-- SETOFF (rule R112): the off mask, in the low half-word, sets the pin's output bit. -/
def execSetoff (s : State) : Attempt State := levelCommand s.drv.offMask s

end Sys2Proof.Machine
end

