-- ==== Sys2Proof/Machine/PinConfiguration.lean ====
section
/-! DEFINITION. The pin configuration commands CFGPIN and CFGALL (rules R100 to R104). -/

namespace Sys2Proof.Machine

/-- CFGPIN (rule R100): micro-step 0 reads the configuration register of the pin into `drv.t`, micro-step 1 writes it
back with the pin's slot replaced. The operand checks give the same answer at both, so they stand once. -/
def execCfgpin (port pin cfg : Byte) (s : State) : Attempt State :=
  withPort port fun p => withPin pin s fun n => withCfg cfg fun c =>
    match s.u with
    | 0 => slotRead (s.base p) n s
    | 1 => andThen (slotWrite (s.base p) n c s) fun s' => .next (s'.complete .none)
    | u => .fault (.noSuchMicroStep u)

/-- The pin of the current pass of CFGALL: `u div 2` (rule R102). -/
def passPin (u : Nat) : Pin := ⟨u / 2 % 16, Nat.mod_lt _ (by decide)⟩

/-- CFGALL (rule R102): 32 micro-steps, a read on even `u` and a write on odd `u`, pin `u div 2`; the write of
micro-step 31 completes the command. -/
def execCfgall (port cfg : Byte) (s : State) : Attempt State :=
  withPort port fun p => withCfg cfg fun c =>
    if 32 ≤ s.u then .fault (.noSuchMicroStep s.u)
    else if s.u % 2 = 0 then slotRead (s.base p) (passPin s.u) s
    else
      andThen (slotWrite (s.base p) (passPin s.u) c s) fun s' =>
        .next (if s.u = 31 then s'.complete .none else s'.goto (s.u + 1))

end Sys2Proof.Machine
end

