-- ==== Sys2Proof/Machine/RegisterAccess.lean ====
section
/-! DEFINITION. The register block access commands AT, RD.x, WR.x (rules R80 to R95). -/

namespace Sys2Proof.Machine

/-- An RD.x command (rules R80, R82 to R87): one bus read of the register of the port, its value the result. -/
def readCommand (r : Reg) (port : Byte) (s : State) : Attempt State :=
  oneMicroStep s <| withPort port fun p =>
    andThen (busRead (regAddress (s.base p) r) s) fun a => .next (a.2.complete (.value a.1))

/-- A WR.x command (rules R80, R89 to R94): one bus write of the data operand to the register of the port. -/
def writeCommand (r : Reg) (port : Byte) (wdata : Word) (s : State) : Attempt State :=
  oneMicroStep s <| withPort port fun p =>
    andThen (busWrite (regAddress (s.base p) r) wdata s) fun s' => .next (s'.complete .none)

/-- A command that the spec refuses after the port check (rules R88, R91, R95). -/
def refusedCommand (reason : Refusal) (port : Byte) (s : State) : Attempt State :=
  oneMicroStep s <| withPort port fun _ => .refused reason

/-- AT (rule R81): the base address of the port is the result; no bus transaction. -/
def execAt (port : Byte) (s : State) : Attempt State :=
  oneMicroStep s <| withPort port fun p => .next (s.complete (.value (s.base p)))

/-- RD.CFGLO (rule R82). -/
def execRdCfglo (port : Byte) (s : State) : Attempt State := readCommand .cfglo port s

/-- RD.CFGHI (rule R83). -/
def execRdCfghi (port : Byte) (s : State) : Attempt State := readCommand .cfghi port s

/-- RD.IDATA (rule R84): the result is a free value. -/
def execRdIdata (port : Byte) (s : State) : Attempt State := readCommand .idata port s

/-- RD.ODATA (rule R85). -/
def execRdOdata (port : Byte) (s : State) : Attempt State := readCommand .odata port s

/-- RD.SETRST (rule R86): the result is a free value. -/
def execRdSetrst (port : Byte) (s : State) : Attempt State := readCommand .setrst port s

/-- RD.RSTONLY (rule R87): the result is a free value. -/
def execRdRstonly (port : Byte) (s : State) : Attempt State := readCommand .rstonly port s

/-- RD.LOCK (rule R88): refused by the spec itself, which gives LOCK no behaviour. -/
def execRdLock (port : Byte) (s : State) : Attempt State := refusedCommand .lockNotModelled port s

/-- WR.CFGLO (rule R89). -/
def execWrCfglo (port : Byte) (wdata : Word) (s : State) : Attempt State := writeCommand .cfglo port wdata s

/-- WR.CFGHI (rule R90). -/
def execWrCfghi (port : Byte) (wdata : Word) (s : State) : Attempt State := writeCommand .cfghi port wdata s

/-- WR.IDATA (rule R91): refused by the spec itself, which gives a write to IDATA no behaviour. -/
def execWrIdata (port : Byte) (_wdata : Word) (s : State) : Attempt State := refusedCommand .writeToInputData port s

/-- WR.ODATA (rule R92). -/
def execWrOdata (port : Byte) (wdata : Word) (s : State) : Attempt State := writeCommand .odata port wdata s

/-- WR.SETRST (rule R93). -/
def execWrSetrst (port : Byte) (wdata : Word) (s : State) : Attempt State := writeCommand .setrst port wdata s

/-- WR.RSTONLY (rule R94). -/
def execWrRstonly (port : Byte) (wdata : Word) (s : State) : Attempt State := writeCommand .rstonly port wdata s

/-- WR.LOCK (rule R95): refused by the spec itself, which gives LOCK no behaviour. -/
def execWrLock (port : Byte) (_wdata : Word) (s : State) : Attempt State := refusedCommand .lockNotModelled port s

end Sys2Proof.Machine
end

