-- ==== Sys2Proof/Machine/Waveform.lean ====
section
/-! DEFINITION. The two non-returning loops RUNFAST and RUNDIAG (rules R120 to R124). Neither has a step that
completes it (R122). -/

namespace Sys2Proof.Machine

/-- RUNFAST (rule R120): micro-step 0 checks for INIT and writes RSTONLY of the selected port, micro-step 1 writes the
off mask to its SETRST and goes back to micro-step 0; `cp` never advances. The check at each return to micro-step 0
is the check on entry: nothing in the loop changes `drv.inited`. -/
def execRunfast (s : State) : Attempt State :=
  match s.u with
  | 0 =>
    whenInited s <|
      andThen (busWrite (regAddress s.drv.ref .rstonly) (fastResetWord s.par s.drv) s) fun s' => .next (s'.goto 1)
  | 1 => andThen (busWrite (regAddress s.drv.ref .setrst) s.drv.offMask s) fun s' => .next (s'.goto 0)
  | u => .fault (.noSuchMicroStep u)

/-- One write of RUNDIAG: a word to a register of a port, then the next micro-step (rule R121). -/
def diagWrite (p : Port) (r : Reg) (word : Word) (next : Nat) (s : State) : Attempt State :=
  andThen (busWrite (regAddress (s.base p) r) word s) fun s' => .next (s'.goto next)

/-- RUNDIAG (rule R121): micro-steps 0 to 2 reset the outputs of the three ports, micro-steps 3 to 5 set them, then
micro-step 0 again; `cp` never advances. It reads no driver state. -/
def execRundiag (s : State) : Attempt State :=
  match s.u with
  | 0 => diagWrite s.par.diagOrder.first .rstonly s.par.diagResetWord 1 s
  | 1 => diagWrite s.par.diagOrder.second .rstonly s.par.diagResetWord 2 s
  | 2 => diagWrite s.par.diagOrder.third .rstonly s.par.diagResetWord 3 s
  | 3 => diagWrite s.par.diagOrder.first .setrst s.par.diagSetWord 4 s
  | 4 => diagWrite s.par.diagOrder.second .setrst s.par.diagSetWord 5 s
  | 5 => diagWrite s.par.diagOrder.third .setrst s.par.diagSetWord 0 s
  | u => .fault (.noSuchMicroStep u)

end Sys2Proof.Machine
end

