-- ==== Sys2Proof/Machine/Dispatch.lean ====
section
/-! DEFINITION. One micro-step of a command: one arm per constructor of Instr. -/

namespace Sys2Proof.Machine

def exec (i : Instr) (s : State) : Host.Outcome State Fault Refusal :=
  match i with
  | .atPort port => Sys2Proof.Machine.execAt port s
  | .rdCfglo port => Sys2Proof.Machine.execRdCfglo port s
  | .rdCfghi port => Sys2Proof.Machine.execRdCfghi port s
  | .rdIdata port => Sys2Proof.Machine.execRdIdata port s
  | .rdOdata port => Sys2Proof.Machine.execRdOdata port s
  | .rdSetrst port => Sys2Proof.Machine.execRdSetrst port s
  | .rdRstonly port => Sys2Proof.Machine.execRdRstonly port s
  | .rdLock port => Sys2Proof.Machine.execRdLock port s
  | .wrCfglo port wdata => Sys2Proof.Machine.execWrCfglo port wdata s
  | .wrCfghi port wdata => Sys2Proof.Machine.execWrCfghi port wdata s
  | .wrIdata port wdata => Sys2Proof.Machine.execWrIdata port wdata s
  | .wrOdata port wdata => Sys2Proof.Machine.execWrOdata port wdata s
  | .wrSetrst port wdata => Sys2Proof.Machine.execWrSetrst port wdata s
  | .wrRstonly port wdata => Sys2Proof.Machine.execWrRstonly port wdata s
  | .wrLock port wdata => Sys2Proof.Machine.execWrLock port wdata s
  | .cfgpin port pin cfg => Sys2Proof.Machine.execCfgpin port pin cfg s
  | .cfgall port cfg => Sys2Proof.Machine.execCfgall port cfg s
  | .initPin port pin => Sys2Proof.Machine.execInit port pin s
  | .seton => Sys2Proof.Machine.execSeton s
  | .setoff => Sys2Proof.Machine.execSetoff s
  | .runfast => Sys2Proof.Machine.execRunfast s
  | .rundiag => Sys2Proof.Machine.execRundiag s

end Sys2Proof.Machine
end

