-- ==== Sys2Proof/Machine/Sequencer.lean ====
section
/-! DEFINITION. The sequencer (rules R5, R25, R49): one micro-step of the driver, the interleaving with the other
agent, and the load of a command stream. -/

namespace Sys2Proof.Machine

/-- One micro-step of the driver: fetch the command at `cp`, decode it, run it (rules R25, R72). -/
def driverStep (s : State) : Host.Outcome State Fault Refusal :=
  match s.fetch with
  | none => .refused .endOfStream
  | some c =>
    match decode c with
    | .ok i => exec i s
    | .error (.illegalCommand cw) => .refused (.illegalCommand cw)

/-- The agent whose turn it is moves; the driver, when no turns are listed (`INTERFERER = none`, rule R52). -/
def takeTurn (s : State) : Host.Outcome State Fault Refusal :=
  match s.turns with
  | [] => driverStep s
  | .driver :: rest => driverStep { s with turns := rest }
  | .other e :: rest => otherEvent e { s with turns := rest }

/-- The state with a command placed in the stream at `cp`, at its first micro-step, the driver to move: the load of a
program from outside the machine (rule R25: the stream is a parameter of the run). -/
def State.load (s : State) (c : Command) : State :=
  { s with stream := placeCommand c s.cp s.stream, u := 0, turns := [] }

end Sys2Proof.Machine
end

