-- ==== Sys2Proof/Machine/Step.lean ====
section
/-! DEFINITION. One step of the machine, and the placing of an instruction where the next step fetches it. -/

namespace Sys2Proof.Machine

/-- One step: one micro-step of the driver, or one event of the interferer where it is its turn (rules R5, R49). -/
def step (s : State) : Host.Outcome State Fault Refusal := takeTurn s

/-- The state with the instruction of a table word placed where the next step fetches it (log entry 1). -/
def State.withFetchWord (s : State) (nbits w : Nat) : State := s.load (commandOfBits nbits w)

end Sys2Proof.Machine
end

