-- ==== Sys2Proof/Machine/Assembly.lean ====
section
/-! DEFINITION. The assembler's side of the commands: the textual form of rule R75 and the three pseudo-commands of
rule R76. -/

namespace Sys2Proof.Machine

/-- PINHIGH p, pin is `WR.SETRST p, (1 << pin)` (rule R76). -/
def pinHigh (port : Byte) (n : Pin) : Instr := .wrSetrst port (1#32 <<< n.val)

/-- PINLOW p, pin is `WR.SETRST p, (1 << (pin + 16))` (rule R76). -/
def pinLow (port : Byte) (n : Pin) : Instr := .wrSetrst port (1#32 <<< (n.val + 16))

/-- CFGOUT p, pin is `CFGPIN p, pin, 0x3` (rule R76). -/
def cfgOut (port pin : Byte) : Instr := .cfgpin port pin 0x3

/-- One hexadecimal digit. -/
def hexDigit (n : Nat) : String :=
  match n % 16 with
  | 0 => "0" | 1 => "1" | 2 => "2" | 3 => "3" | 4 => "4" | 5 => "5" | 6 => "6" | 7 => "7"
  | 8 => "8" | 9 => "9" | 10 => "A" | 11 => "B" | 12 => "C" | 13 => "D" | 14 => "E" | _ => "F"

/-- The lowest `k` hexadecimal digits of a number. -/
def hexDigits : Nat → Nat → String
  | 0, _ => ""
  | k + 1, n => hexDigits k (n / 16) ++ hexDigit n

/-- A port operand: A, B, C, or the number of an illegal port (rule R75). -/
def portText (port : Byte) : String :=
  match portOf port with
  | some .A => "A"
  | some .B => "B"
  | some .C => "C"
  | none => toString port.toNat

/-- A PinConfig operand in hexadecimal. -/
def cfgText (cfg : Byte) : String :=
  "0x" ++ (if cfg.toNat < 16 then hexDigits 1 cfg.toNat else hexDigits 2 cfg.toNat)

/-- The operands of a command in the order port, pin, cfg, data (rule R75). -/
def operandTexts (i : Instr) : List String :=
  (i.port?.map portText).toList ++ (i.pin?.map fun n => toString n.toNat).toList
    ++ (i.cfg?.map cfgText).toList ++ (i.wdata?.map fun w => "0x" ++ hexDigits 8 w.toNat).toList

/-- A command as one line of text (rule R75). -/
def commandText (i : Instr) : String :=
  match operandTexts i with
  | [] => i.mnemonic
  | xs => i.mnemonic ++ " " ++ ", ".intercalate xs

end Sys2Proof.Machine
end

