-- ==== Sys2Proof/Machine/PinFunction.lean ====
section
/-! DEFINITION. The meaning of a configuration nibble (rules R15, R61 to R64), with the constants of rule R64. No
command reads it: the packer stores any nibble as it is (R73). -/

namespace Sys2Proof.Machine

/-- The three output speeds; the labels name a drive strength, not a timing (rules R61, R162). -/
inductive Speed where
  | mhz10 | mhz2 | mhz50
deriving DecidableEq, Repr

/-- The drive style of an output (rule R62). -/
inductive OutStyle where
  | pushPull | openDrain | altPushPull | altOpenDrain
deriving DecidableEq, Repr

/-- The style of an input (rule R63). -/
inductive InStyle where
  | analog | floating | pulled
deriving DecidableEq, Repr

/-- A PinConfig with a meaning: exactly one mode and one sub-configuration (rule R15). -/
inductive PinConfig where
  | input (style : InStyle)
  | output (speed : Speed) (style : OutStyle)
deriving DecidableEq, Repr

/-- `MODE_IN`. -/
def modeIn : Nibble := 0x0
/-- `MODE_OUT_10`. -/
def modeOut10 : Nibble := 0x1
/-- `MODE_OUT_2`. -/
def modeOut2 : Nibble := 0x2
/-- `MODE_OUT_50`. -/
def modeOut50 : Nibble := 0x3
/-- `CONF_GP_PP`. -/
def confGpPp : Nibble := 0x0
/-- `CONF_GP_OD`. -/
def confGpOd : Nibble := 0x4
/-- `CONF_ALT_PP`. -/
def confAltPp : Nibble := 0x8
/-- `CONF_ALT_OD`. -/
def confAltOd : Nibble := 0xC
/-- `CONF_IN_ANALOG`. -/
def confInAnalog : Nibble := 0x0
/-- `CONF_IN_FLOAT`. -/
def confInFloat : Nibble := 0x4
/-- `CONF_IN_PULL`. -/
def confInPull : Nibble := 0x8

/-- The mode field of a speed (rule R61). -/
def speedBits : Speed → Nibble
  | .mhz10 => modeOut10
  | .mhz2 => modeOut2
  | .mhz50 => modeOut50

/-- The sub-configuration of an output, in place (rule R62). -/
def outStyleBits : OutStyle → Nibble
  | .pushPull => confGpPp
  | .openDrain => confGpOd
  | .altPushPull => confAltPp
  | .altOpenDrain => confAltOd

/-- The sub-configuration of an input, in place (rule R63). -/
def inStyleBits : InStyle → Nibble
  | .analog => confInAnalog
  | .floating => confInFloat
  | .pulled => confInPull

/-- The nibble of a PinConfig: `sub_config OR mode` (rule R64). -/
def nibbleOf : PinConfig → Nibble
  | .input style => inStyleBits style ||| modeIn
  | .output speed style => outStyleBits style ||| speedBits speed

/-- The drive style of an output's bits 3:2 (rule R62). -/
def outStyleOf (sub : BitVec 2) : OutStyle :=
  match sub.toNat with
  | 0 => .pushPull
  | 1 => .openDrain
  | 2 => .altPushPull
  | _ => .altOpenDrain

/-- The meaning of a nibble (rules R61 to R64); 0xC is reserved and has none (R63, R73). -/
def meaningOf (v : Nibble) : Option PinConfig :=
  let sub := v.extractLsb' 2 2
  match (v.extractLsb' 0 2).toNat with
  | 0 =>
    match sub.toNat with
    | 0 => some (.input .analog)
    | 1 => some (.input .floating)
    | 2 => some (.input .pulled)
    | _ => none
  | 1 => some (.output .mhz10 (outStyleOf sub))
  | 2 => some (.output .mhz2 (outStyleOf sub))
  | _ => some (.output .mhz50 (outStyleOf sub))

end Sys2Proof.Machine
end

