-- ==== Sys2Proof/Machine/Observe.lean ====
section
/-! DEFINITION. What the environment sees (rules R16, R28, R30): the slot value and the output bit of each pin, the
level state machine derived from them, and the stored content of a register word. -/

namespace Sys2Proof.Machine

/-- The configuration register that holds a pin's slot (rules R13, R14, R65). -/
def slotWord (k : PortBlock) (n : Pin) : Word := if n.val < 8 then k.cfglo else k.cfghi

/-- The slot value of a pin of a port (rules R13, R14, R30). -/
def State.slotValue (s : State) (p : Port) (n : Pin) : Nibble :=
  (slotWord (s.block p) n).extractLsb' (slotShift n) 4

/-- The output bit of a pin: ODATA bit N (rules R19, R30). -/
def State.outputBit (s : State) (p : Port) (n : Pin) : Bool := (s.block p).odata.getLsbD n.val

/-- The observation of a pin: the pair of its slot value and its output bit (rules R16, R30). -/
def State.observe (s : State) (p : Port) (n : Pin) : Nibble × Bool := (s.slotValue p n, s.outputBit p n)

/-- What the pin is configured as; none for the reserved nibble 0xC (rules R16, R64, U8). -/
def State.pinFunction (s : State) (p : Port) (n : Pin) : Option PinConfig := meaningOf (s.slotValue p n)

/-- The two states of the per-pin level state machine (rule R28). -/
inductive LevelState where
  | drivenLow | drivenHigh
deriving DecidableEq, Repr

/-- DRIVEN_HIGH when the pin's output bit is 1, DRIVEN_LOW when it is 0 (rule R28); no storage of its own. -/
def State.levelState (s : State) (p : Port) (n : Pin) : LevelState :=
  if s.outputBit p n then .drivenHigh else .drivenLow

/-- The electrical level of a pin, where the source gives one: for the configuration 0x3, high when the output bit is
1 and low when it is 0 (rule R16); nothing is said for any other nibble. -/
def State.electricallyHigh (s : State) (p : Port) (n : Pin) : Option Bool :=
  if s.slotValue p n = 0x3 then some (s.outputBit p n) else none

/-- The stored content of a register (rule R11, column "stored bits"); none for one that stores nothing. -/
def storedReg (k : PortBlock) (r : Reg) : Option Word :=
  match r with
  | .cfglo => some k.cfglo
  | .cfghi => some k.cfghi
  | .odata => some (k.odata.setWidth 32)
  | .idata => none
  | .setrst => none
  | .rstonly => none
  | .lock => none

/-- The content stored at an address of the address space (rules R40, R41): none where no register stores a word. -/
def State.storedWord (s : State) (addr : Word) : Option Word :=
  match decodeAddress s.par.portBase addr with
  | some (p, r) => storedReg (s.block p) r
  | none => none

end Sys2Proof.Machine
end

