-- ==== Sys2Proof/Safety.lean ====
section
/-! DEFINITION. The terms in which claims are stated: the premises of a port, the addresses of the 21 words, several
micro-steps of one command, and the invariant of the machine. -/

namespace Sys2Proof.Machine

/-- The premises of the spec for a port: its clock is online (R151), and no slot of it is locked (R21). -/
def Live (s : State) (p : Port) : Prop := (s.block p).clocked = true ∧ (s.block p).locked = false

/-- What a register access of the port's block needs: the constraint on `PORT_BASE` (R6, R41), and the premises. -/
def Ready (s : State) (p : Port) : Prop := s.par.portBase.Legal ∧ Live s p

/-- The address is one of the 21 words of the three blocks (rule R40). -/
def RegisterWord (bases : Bases) (addr : Word) : Prop := ∃ p r, addr = bases.get p + BitVec.ofNat 32 (4 * regIndex r)

/-- The driver is initialised for a pin: what INIT stores (rules R23, R110). -/
def InitedFor (s : State) (p : Port) (n : Pin) : Prop :=
  s.drv.inited = true ∧ s.drv.ref = s.base p ∧ s.drv.offMask = 1#32 <<< n.val ∧ s.drv.onMask = 1#32 <<< (n.val + 16)

/-- `k` micro-steps of one command in a row, the first stop ending them. -/
def micro (i : Instr) : Nat → State → Attempt State
  | 0, s => .next s
  | k + 1, s => andThen (exec i s) (micro i k)

/-- Several commands one after the other, each with its number of micro-steps. -/
def micros : List (Instr × Nat) → State → Attempt State
  | [], s => .next s
  | (i, k) :: rest, s => andThen (micro i k s) (micros rest)

/-- The invariant of the machine. -/
structure Inv (s : State) : Prop where
  /-- The constraint on `PORT_BASE` (R6, R41, D26). -/
  bases : s.par.portBase.Legal
  /-- The premises of every run (R21, R151). -/
  live : ∀ p, Live s p
  /-- An initialised driver holds the base of a port and the masks of a pin (R22, R23). -/
  driver : s.drv.inited = true →
    (∃ p, s.drv.ref = s.base p) ∧
    ∃ n : Pin, s.drv.offMask = 1#32 <<< n.val ∧ s.drv.onMask = 1#32 <<< (n.val + 16)
  /-- The current command has the micro-step it is at (R25). -/
  microStep : ∀ i, s.current = some i → s.u < i.microSteps
  /-- In the middle of INIT the reference is already that of the port (R110). -/
  midInit : ∀ port pin, s.current = some (.initPin port pin) → s.u = 1 → ∃ p : Port, port = p.code ∧ s.drv.ref = s.base p
  /-- In the middle of RUNFAST the driver is initialised (R120). -/
  midFast : s.current = some .runfast → s.u = 1 → s.drv.inited = true
  /-- The driver has issued no address outside the 21 words (R40). -/
  issued : ∀ x ∈ s.trace, RegisterWord s.par.portBase x.addr

/-- The run is over in good order: the driver is to move and the stream holds no command at `cp` (R25). -/
def Finished (s : State) : Prop := s.turns = [] ∧ s.fetch = none

/-- The commands whose meaning stops on every path, because the spec refuses them (R88, R91, R95). -/
def refusedBySpec : Instr → Bool
  | .rdLock _ => true
  | .wrLock _ _ => true
  | .wrIdata _ _ => true
  | .atPort _ | .rdCfglo _ | .rdCfghi _ | .rdIdata _ | .rdOdata _ | .rdSetrst _ | .rdRstonly _ => false
  | .wrCfglo _ _ | .wrCfghi _ _ | .wrOdata _ _ | .wrSetrst _ _ | .wrRstonly _ _ => false
  | .cfgpin _ _ _ | .cfgall _ _ | .initPin _ _ | .seton | .setoff | .runfast | .rundiag => false

end Sys2Proof.Machine
end

