-- ==== Sys2Proof/Certificates/Slice0/Obligations.lean ====
section
/-! DEFINITION. The statements for the provers. Every statement about a port operand is made for the operands
`p.code` (0, 1, 2) and for the operands above 2, which together are all of them; in the same way a pin operand is
`BitVec.ofNat 8 n.val` or above 15, and a PinConfig operand is `c.setWidth 8` or above 15. An equation
`exec i s = .next { s with … }` is at once where the command completes, what it changes, and its frame. -/

open Sys2Proof Sys2Proof.Machine

/-! ## The command word -/

/-- Rules R70, R72: encoding a command and decoding the word gives the command back, every operand at every value. The
format is the spec's decision D2. -/
def Obligations.DecodeOfEncode : Prop := ∀ i : Instr, decode (encode i) = .ok i

/-- Rules R70, R72: a control word that decodes is the control word of the instruction it decodes to, and a data
operand that the instruction reads is the one presented. The format is the spec's decision D2. -/
def Obligations.EncodeOfDecode : Prop :=
  ∀ (c : Command) (i : Instr), decode c = .ok i →
    (encode i).cw = c.cw ∧ ∀ w, i.wdata? = some w → w = c.wdata

/-- Rule R72: the opcode map, match and mask of the 22 rows, and the refusal of every other control word. The map is
the spec's decision D2. -/
def Obligations.DecodeFollowsOpcodeMap : Prop :=
  ∀ cw wdata : Word,
    decode ⟨cw, wdata⟩ =
      if cw &&& 0xFF00FFFF#32 = 0x01000000#32 then .ok (.atPort (cw.extractLsb' 16 8))
      else if cw &&& 0xFF00FFFF#32 = 0x02000000#32 then .ok (.rdCfglo (cw.extractLsb' 16 8))
      else if cw &&& 0xFF00FFFF#32 = 0x02000100#32 then .ok (.rdCfghi (cw.extractLsb' 16 8))
      else if cw &&& 0xFF00FFFF#32 = 0x02000200#32 then .ok (.rdIdata (cw.extractLsb' 16 8))
      else if cw &&& 0xFF00FFFF#32 = 0x02000300#32 then .ok (.rdOdata (cw.extractLsb' 16 8))
      else if cw &&& 0xFF00FFFF#32 = 0x02000400#32 then .ok (.rdSetrst (cw.extractLsb' 16 8))
      else if cw &&& 0xFF00FFFF#32 = 0x02000500#32 then .ok (.rdRstonly (cw.extractLsb' 16 8))
      else if cw &&& 0xFF00FFFF#32 = 0x02000600#32 then .ok (.rdLock (cw.extractLsb' 16 8))
      else if cw &&& 0xFF00FFFF#32 = 0x03000000#32 then .ok (.wrCfglo (cw.extractLsb' 16 8) wdata)
      else if cw &&& 0xFF00FFFF#32 = 0x03000100#32 then .ok (.wrCfghi (cw.extractLsb' 16 8) wdata)
      else if cw &&& 0xFF00FFFF#32 = 0x03000200#32 then .ok (.wrIdata (cw.extractLsb' 16 8) wdata)
      else if cw &&& 0xFF00FFFF#32 = 0x03000300#32 then .ok (.wrOdata (cw.extractLsb' 16 8) wdata)
      else if cw &&& 0xFF00FFFF#32 = 0x03000400#32 then .ok (.wrSetrst (cw.extractLsb' 16 8) wdata)
      else if cw &&& 0xFF00FFFF#32 = 0x03000500#32 then .ok (.wrRstonly (cw.extractLsb' 16 8) wdata)
      else if cw &&& 0xFF00FFFF#32 = 0x03000600#32 then .ok (.wrLock (cw.extractLsb' 16 8) wdata)
      else if cw &&& 0xFF000000#32 = 0x04000000#32 then
        .ok (.cfgpin (cw.extractLsb' 16 8) (cw.extractLsb' 8 8) (cw.extractLsb' 0 8))
      else if cw &&& 0xFF00FF00#32 = 0x05000000#32 then .ok (.cfgall (cw.extractLsb' 16 8) (cw.extractLsb' 0 8))
      else if cw &&& 0xFF0000FF#32 = 0x06000000#32 then .ok (.initPin (cw.extractLsb' 16 8) (cw.extractLsb' 8 8))
      else if cw = 0x07000000#32 then .ok .seton
      else if cw = 0x08000000#32 then .ok .setoff
      else if cw = 0x09000000#32 then .ok .runfast
      else if cw = 0x0A000000#32 then .ok .rundiag
      else .error (.illegalCommand cw)

/-- Rule R72: the rows of the opcode table are disjoint, a control word that decodes selects the row of its mnemonic,
and one that is refused selects no row. The map is the spec's decision D2. -/
def Obligations.OpcodeRowsDisjointAndComplete : Prop :=
  (∀ (cw : Word) (r q : OpcodeRow), r ∈ opcodeTable → q ∈ opcodeTable →
    r.selects cw = true → q.selects cw = true → r = q) ∧
  ∀ c : Command,
    match decode c with
    | .ok i => ∃ r ∈ opcodeTable, r.mnemonic = i.mnemonic ∧ r.selects c.cw = true
    | .error e => e = .illegalCommand c.cw ∧ ∀ r ∈ opcodeTable, r.selects c.cw = false

/-- Words that the rules R81, R85, R93, R100, R102, R110, R111, R112, R120 and R121 give as examples or as the encoding
decode to the commands they are given for, and the reserved word 0x0B000000 (test vector V7) is refused. The words are
the spec's decision D2. -/
def Obligations.ExampleWordsDecode : Prop :=
  decode ⟨0x01020000, 0⟩ = .ok (.atPort 2) ∧
  decode ⟨0x02020300, 0⟩ = .ok (.rdOdata 2) ∧
  decode ⟨0x03020400, 0x00002000⟩ = .ok (.wrSetrst 2 0x00002000) ∧
  decode ⟨0x04000503, 0⟩ = .ok (.cfgpin 0 5 3) ∧
  decode ⟨0x05000003, 0⟩ = .ok (.cfgall 0 3) ∧
  decode ⟨0x06020D00, 0⟩ = .ok (.initPin 2 13) ∧
  decode ⟨0x07000000, 0⟩ = .ok .seton ∧
  decode ⟨0x08000000, 0⟩ = .ok .setoff ∧
  decode ⟨0x09000000, 0⟩ = .ok .runfast ∧
  decode ⟨0x0A000000, 0⟩ = .ok .rundiag ∧
  decode ⟨0x0B000000, 0⟩ = .error (.illegalCommand 0x0B000000)

/-- Rule R76: the three pseudo-commands are the commands the rule expands them to. They are the spec's decision D3. -/
def Obligations.PseudoCommandExpansions : Prop :=
  ∀ (port : Byte) (n : Pin),
    pinHigh port n = .wrSetrst port (1#32 <<< n.val) ∧
    pinLow port n = .wrSetrst port (1#32 <<< (n.val + 16)) ∧
    cfgOut port (BitVec.ofNat 8 n.val) = .cfgpin port (BitVec.ofNat 8 n.val) 0x3

/-! ## Operand computations -/

/-- Rule R65: register, slot number, shift and mask of every pin. -/
def Obligations.SlotSelection : Prop :=
  ∀ n : Pin,
    (n.val < 8 → slotReg n = .cfglo ∧ slotIndex n = n.val) ∧
    (8 ≤ n.val → slotReg n = .cfghi ∧ slotIndex n = n.val - 8) ∧
    slotShift n = slotIndex n % 8 * 4 ∧ slotShift n = 4 * slotIndex n ∧
    slotMask (slotShift n) = 0xF#32 <<< slotShift n ∧
    ∀ ref, slotAddress ref n = ref + (if n.val < 8 then 0x00#32 else 0x04#32)

/-- Rule R66: the word assembled from a PinConfig and a shift; of its eight slots the one at the shift of pin `n` holds
the PinConfig, none of whose bits is shifted out, and every other one holds what it held. -/
def Obligations.PackSlotReplacesOneSlot : Prop :=
  (∀ (old : Word) (sh : Nat) (c : Nibble), packSlot old sh c = (old &&& ~~~(0xF#32 <<< sh)) ||| (c.setWidth 32 <<< sh)) ∧
  ∀ (old : Word) (n : Pin) (c : Nibble) (j : Nat), j < 8 →
    (packSlot old (slotShift n) c).extractLsb' (4 * j) 4 =
      if j = slotIndex n then c else old.extractLsb' (4 * j) 4

/-- Rules R23, R69: the two masks of a pin are bit N and bit N+16, and do not overlap. -/
def Obligations.PinMasks : Prop :=
  ∀ n : Pin,
    offMaskOf n = BitVec.ofNat 32 (2 ^ n.val) ∧ onMaskOf n = BitVec.ofNat 32 (2 ^ (n.val + 16)) ∧
    onMaskOf n = offMaskOf n <<< 16 ∧ offMaskOf n &&& onMaskOf n = 0

/-- Rule R64: the fifteen nibbles that have a meaning, the reserved nibble 0xC, and that a nibble and its meaning
determine each other. The table is the spec's inference from R61 to R63. -/
def Obligations.NibbleMeanings : Prop :=
  meaningOf 0x0 = some (.input .analog) ∧ meaningOf 0x1 = some (.output .mhz10 .pushPull) ∧
  meaningOf 0x2 = some (.output .mhz2 .pushPull) ∧ meaningOf 0x3 = some (.output .mhz50 .pushPull) ∧
  meaningOf 0x4 = some (.input .floating) ∧ meaningOf 0x5 = some (.output .mhz10 .openDrain) ∧
  meaningOf 0x6 = some (.output .mhz2 .openDrain) ∧ meaningOf 0x7 = some (.output .mhz50 .openDrain) ∧
  meaningOf 0x8 = some (.input .pulled) ∧ meaningOf 0x9 = some (.output .mhz10 .altPushPull) ∧
  meaningOf 0xA = some (.output .mhz2 .altPushPull) ∧ meaningOf 0xB = some (.output .mhz50 .altPushPull) ∧
  meaningOf 0xC = none ∧ meaningOf 0xD = some (.output .mhz10 .altOpenDrain) ∧
  meaningOf 0xE = some (.output .mhz2 .altOpenDrain) ∧ meaningOf 0xF = some (.output .mhz50 .altOpenDrain) ∧
  ∀ (v : Nibble) (m : PinConfig), meaningOf v = some m ↔ nibbleOf m = v

/-- Rule R17, bit by bit, for the three settings of `BSR_CONFLICT`: a write to SETRST sets the output bit whose set
bit is 1, clears the one whose reset bit is 1, keeps the one with neither; with both it is set, cleared, or open. The
bits with both are the spec's decision D8. -/
def Obligations.SetrstWordBitByBit : Prop :=
  ∀ (d : Word) (old : Half) (v : Word) (n : Pin),
    (v.getLsbD n.val = true → v.getLsbD (n.val + 16) = false →
      ∀ m, (afterSetrst m d old v).getLsbD n.val = true) ∧
    (v.getLsbD n.val = false → v.getLsbD (n.val + 16) = true →
      ∀ m, (afterSetrst m d old v).getLsbD n.val = false) ∧
    (v.getLsbD n.val = false → v.getLsbD (n.val + 16) = false →
      ∀ m, (afterSetrst m d old v).getLsbD n.val = old.getLsbD n.val) ∧
    (v.getLsbD n.val = true → v.getLsbD (n.val + 16) = true →
      (afterSetrst .setWins d old v).getLsbD n.val = true ∧
      (afterSetrst .resetWins d old v).getLsbD n.val = false ∧
      (afterSetrst .any d old v).getLsbD n.val = d.getLsbD n.val)

/-- Rule R18, bit by bit: a write to RSTONLY clears the output bit of every pin whose bit is 1 and keeps the others;
the high half-word does not matter. The layout is the spec's decision D9. -/
def Obligations.RstonlyWordBitByBit : Prop :=
  ∀ (old : Half) (v : Word) (n : Pin),
    (afterRstonly old v).getLsbD n.val = (old.getLsbD n.val && !v.getLsbD n.val)

/-! ## The sequencer -/

/-- Rule R25: where it is the driver's turn and the command at `cp` decodes, a step is one micro-step of that command;
a listed turn of the driver is used up first. The sequencer is the spec's decision D5, the turns are log entry 10. -/
def Obligations.StepRunsDecodedInstruction : Prop :=
  ∀ (s : State) (c : Command) (i : Instr), s.stream[s.cp]? = some c → decode c = .ok i →
    (s.turns = [] → step s = exec i s) ∧
    ∀ rest, s.turns = .driver :: rest → step s = exec i { s with turns := rest }

/-- Rules R25, R72, R132: at the end of the stream the run is over, and a reserved control word is refused by name.
The sequencer and the refusal are the spec's decisions D5 and D2, the name of the stop at the end is log entry 1. -/
def Obligations.StepStopsAtStreamEndAndReservedWords : Prop :=
  ∀ s : State, s.turns = [] →
    (s.stream[s.cp]? = none → step s = .refused .endOfStream) ∧
    ∀ c e, s.stream[s.cp]? = some c → decode c = .error e → step s = .refused (.illegalCommand c.cw)

/-- Rule R25: every next state of a micro-step is one of four: before the last micro-step of the command, the move to
the next one; at the last, the completion of the command, unless it is one of the two loops; at the last micro-step of a
loop, the return to micro-step 0, never a completion; or, under `CHECKED` alone, the report of one of the two conditions
of rule R135, with no other effect. The sequencer is the spec's decision D5; that the report shows on the result port, and
that the conditions are checked at every `u`, is the model's choice (log entry 7). -/
def Obligations.MicroStepMovesTheSequencer : Prop :=
  ∀ (i : Instr) (s t : State), exec i s = .next t →
    (s.u + 1 < i.microSteps ∧ t.cp = s.cp ∧ t.u = s.u + 1) ∨
      (s.u + 1 = i.microSteps ∧ i ≠ .runfast ∧ i ≠ .rundiag ∧ t.cp = s.cp + 1 ∧ t.u = 0) ∨
      (s.u + 1 = i.microSteps ∧ (i = .runfast ∨ i = .rundiag) ∧ t.cp = s.cp ∧ t.u = 0) ∨
      (s.par.checked = true ∧ ∃ r, t = { s with result := .reported r, cp := s.cp + 1, u := 0 } ∧
        ((r = .outOfRangePinIndex ∧ ∃ pin, i.pin? = some pin ∧ 15 < pin.toNat) ∨
         (r = .driverNotInitialized ∧ i.needsInit = true ∧ s.drv.inited = false)))

/-- Rules R5, R40: a step of the machine issues at most one bus transaction of the driver, at one of the 21 words. The
stepping is the spec's decision D5. -/
def Obligations.StepIssuesAtMostOneTransaction : Prop :=
  ∀ s t : State, step s = .next t →
    t.trace = s.trace ∨ ∃ x, t.trace = s.trace ++ [x] ∧ RegisterWord s.par.portBase x.addr

/-- Rules R6, R54: no step changes a parameter or a command of the stream, and the turns are used in order. That the
parameters, the premises and the turns ride in the state is the model's choice (log entries 3, 8, 9, 10). -/
def Obligations.StepKeepsParametersAndStream : Prop :=
  ∀ s t : State, step s = .next t →
    t.par = s.par ∧ t.stream = s.stream ∧ t.turns = s.turns.tail ∧
      ∀ p, (t.block p).clocked = (s.block p).clocked ∧ (t.block p).locked = (s.block p).locked

/-- Rule R22: INIT alone writes the stored reference, the masks and the mark; every other command leaves them. -/
def Obligations.OnlyInitWritesTheStoredReference : Prop :=
  ∀ (i : Instr) (s t : State), exec i s = .next t → (∀ port pin, i ≠ .initPin port pin) →
    t.drv.ref = s.drv.ref ∧ t.drv.offMask = s.drv.offMask ∧ t.drv.onMask = s.drv.onMask ∧
      t.drv.inited = s.drv.inited

/-- Rule R150: no step returns the driver to the uninitialised state. The mark is the spec's decision D7. -/
def Obligations.NoStepUninitialisesTheDriver : Prop :=
  ∀ s t : State, step s = .next t → s.drv.inited = true → t.drv.inited = true

/-! ## The bus -/

/-- Rules R13, R14, R17 to R21, R41: what a read of each of the 21 words returns; a read changes no state but the
count of the free values drawn. Open reads, ODATA and LOCK are the spec's decisions D10 to D13; the count is log entry
4. -/
def Obligations.MemReadOfEachRegister : Prop :=
  ∀ (s : State) (p : Port), Ready s p →
    memRead (s.base p + 0x00#32) 4 s = .next ((s.block p).cfglo, s) ∧
    memRead (s.base p + 0x04#32) 4 s = .next ((s.block p).cfghi, s) ∧
    (∃ v, memRead (s.base p + 0x08#32) 4 s = .next (v, { s with draws := s.draws + 1 })) ∧
    memRead (s.base p + 0x0C#32) 4 s = .next ((s.block p).odata.setWidth 32, s) ∧
    (∃ v, memRead (s.base p + 0x10#32) 4 s = .next (v, { s with draws := s.draws + 1 })) ∧
    (∃ v, memRead (s.base p + 0x14#32) 4 s = .next (v, { s with draws := s.draws + 1 })) ∧
    memRead (s.base p + 0x18#32) 4 s = .refused .lockNotModelled

/-- Rules R12, R17 to R21, R41: what a write to each of the 21 words changes, under `set_wins`. They rest on the
spec's decisions D8 to D12. -/
def Obligations.MemWriteOfEachRegister : Prop :=
  ∀ (s : State) (p : Port) (v : Word), Ready s p → s.par.bsrConflict = .setWins →
    memWrite (s.base p + 0x00#32) 4 v s = .next { s with ports := s.ports.set p { s.block p with cfglo := v } } ∧
    memWrite (s.base p + 0x04#32) 4 v s = .next { s with ports := s.ports.set p { s.block p with cfghi := v } } ∧
    memWrite (s.base p + 0x08#32) 4 v s = .refused .writeToInputData ∧
    memWrite (s.base p + 0x0C#32) 4 v s =
      .next { s with ports := s.ports.set p { s.block p with odata := v.extractLsb' 0 16 } } ∧
    memWrite (s.base p + 0x10#32) 4 v s =
      .next { s with
        ports := s.ports.set p
          { s.block p with odata := ((s.block p).odata &&& ~~~(v.extractLsb' 16 16)) ||| v.extractLsb' 0 16 } } ∧
    memWrite (s.base p + 0x14#32) 4 v s =
      .next { s with ports := s.ports.set p { s.block p with odata := (s.block p).odata &&& ~~~(v.extractLsb' 0 16) } } ∧
    memWrite (s.base p + 0x18#32) 4 v s = .refused .lockNotModelled

/-- Rules R42 to R44: an access of another width or at no multiple of 4 is refused, and one at an address that is none
of the 21 words faults. The last clause is the model's choice (log entries 8 and 9): outside the premises `clocked(p)`
and "no slot is locked" an access to a register of the port is refused. -/
def Obligations.AccessesOutsideTheContractStop : Prop :=
  ∀ (s : State) (addr v : Word) (bytes : Nat),
    (bytes ≠ 4 → memRead addr bytes s = .refused (.accessWidth bytes) ∧
      memWrite addr bytes v s = .refused (.accessWidth bytes)) ∧
    (addr.toNat % 4 ≠ 0 → memRead addr 4 s = .refused (.misaligned addr) ∧
      memWrite addr 4 v s = .refused (.misaligned addr)) ∧
    (addr.toNat % 4 = 0 → ¬ RegisterWord s.par.portBase addr →
      memRead addr 4 s = .fault (.unmappedAddress addr) ∧ memWrite addr 4 v s = .fault (.unmappedAddress addr)) ∧
    ∀ (p : Port) (r : Reg), s.par.portBase.Legal → addr = s.base p + BitVec.ofNat 32 (4 * regIndex r) →
      ((s.block p).clocked = false →
        memRead addr 4 s = .refused (.portNotClocked p) ∧ memWrite addr 4 v s = .refused (.portNotClocked p)) ∧
      ((s.block p).clocked = true → (s.block p).locked = true →
        memRead addr 4 s = .refused (.portLocked p) ∧ memWrite addr 4 v s = .refused (.portLocked p))

/-- Rule R10: no micro-step of a command that names a port changes any state of another port. The disjoint bases are
the spec's decision D26. -/
def Obligations.PortsAreIndependent : Prop :=
  ∀ (i : Instr) (s t : State) (p q : Port), i.port? = some p.code → q ≠ p →
    (∀ port pin, i = .initPin port pin → s.u = 1 → s.drv.ref = s.base p) → s.par.portBase.Legal →
    exec i s = .next t → t.block q = s.block q

/-- Rule R48: a second write of the same word to a register leaves what the first left, where `BSR_CONFLICT` is not
`any` or the word has no bit N and bit N+16 both 1. It rests on the spec's decisions D8 to D10. -/
def Obligations.RepeatedWriteChangesNothing : Prop :=
  ∀ (s t : State) (addr v : Word), s.par.bsrConflict ≠ .any ∨ v.extractLsb' 0 16 &&& v.extractLsb' 16 16 = 0#16 →
    memWrite addr 4 v s = .next t → memWrite addr 4 v t = .next t

/-! ## Register block access commands -/

/-- Rule R81: AT returns the base of its port, changes nothing else, issues no transaction. The result port and the
check are the spec's decisions D22 and D6. -/
def Obligations.AtReturnsThePortBase : Prop :=
  (∀ (port : Byte) (w : Word), decode ⟨0x01000000#32 ||| port.setWidth 32 <<< 16, w⟩ = .ok (.atPort port)) ∧
  ∀ s : State, s.u = 0 →
    (∀ p : Port, exec (.atPort p.code) s = .next { s with result := .value (s.base p), cp := s.cp + 1, u := 0 }) ∧
    ∀ port : Byte, 2 < port.toNat → exec (.atPort port) s = .fault (.invalidBase port)

/-- Rules R82, R83: RD.CFGLO and RD.CFGHI return the stored 32 bits, issue one read, change nothing else; a port operand
above 2 faults. At reset CFGLO holds the OPEN `RESET_CFGLO`: the spec's decision D7, an opaque constant in the model (log
entry 5); that the read completes there rests on the model's choice of what a port is at reset, not locked and clocked
(log entries 8 and 9). -/
def Obligations.ReadsOfConfigurationRegisters : Prop :=
  (∀ (port : Byte) (w : Word),
    decode ⟨0x02000000#32 ||| port.setWidth 32 <<< 16, w⟩ = .ok (.rdCfglo port) ∧
    decode ⟨0x02000100#32 ||| port.setWidth 32 <<< 16, w⟩ = .ok (.rdCfghi port)) ∧
  (∀ s : State, s.u = 0 →
    (∀ p : Port, Ready s p →
      exec (.rdCfglo p.code) s = .next { s with
        result := .value (s.block p).cfglo, cp := s.cp + 1, u := 0
        trace := s.trace ++ [⟨.read, s.base p + 0x00#32, (s.block p).cfglo⟩] } ∧
      exec (.rdCfghi p.code) s = .next { s with
        result := .value (s.block p).cfghi, cp := s.cp + 1, u := 0
        trace := s.trace ++ [⟨.read, s.base p + 0x04#32, (s.block p).cfghi⟩] }) ∧
    ∀ port : Byte, 2 < port.toNat →
      exec (.rdCfglo port) s = .fault (.invalidBase port) ∧ exec (.rdCfghi port) s = .fault (.invalidBase port)) ∧
  ∀ (par : Params) (p : Port), par.portBase.Legal →
    ∃ t, exec (.rdCfglo p.code) (resetWith par) = .next t ∧ t.result = .value (Config.resetCfglo p)

/-- Rules R84 to R87: RD.ODATA returns the 16 output bits with bits 31:16 zero (the spec's decision D10); RD.IDATA,
RD.SETRST and RD.RSTONLY return an open value v (the spec's decisions D11 and D13); each issues one read of it and
changes nothing else but the model's count of open values (log entry 4). A port operand above 2 faults. -/
def Obligations.ReadsOfDataRegisters : Prop :=
  (∀ (port : Byte) (w : Word),
    decode ⟨0x02000300#32 ||| port.setWidth 32 <<< 16, w⟩ = .ok (.rdOdata port) ∧
    decode ⟨0x02000200#32 ||| port.setWidth 32 <<< 16, w⟩ = .ok (.rdIdata port) ∧
    decode ⟨0x02000400#32 ||| port.setWidth 32 <<< 16, w⟩ = .ok (.rdSetrst port) ∧
    decode ⟨0x02000500#32 ||| port.setWidth 32 <<< 16, w⟩ = .ok (.rdRstonly port)) ∧
  ∀ s : State, s.u = 0 →
    (∀ p : Port, Ready s p →
      exec (.rdOdata p.code) s = .next { s with
        result := .value ((s.block p).odata.setWidth 32), cp := s.cp + 1, u := 0
        trace := s.trace ++ [⟨.read, s.base p + 0x0C#32, (s.block p).odata.setWidth 32⟩] } ∧
      (∃ v, exec (.rdIdata p.code) s = .next { s with
        result := .value v, cp := s.cp + 1, u := 0, draws := s.draws + 1
        trace := s.trace ++ [⟨.read, s.base p + 0x08#32, v⟩] }) ∧
      (∃ v, exec (.rdSetrst p.code) s = .next { s with
        result := .value v, cp := s.cp + 1, u := 0, draws := s.draws + 1
        trace := s.trace ++ [⟨.read, s.base p + 0x10#32, v⟩] }) ∧
      ∃ v, exec (.rdRstonly p.code) s = .next { s with
        result := .value v, cp := s.cp + 1, u := 0, draws := s.draws + 1
        trace := s.trace ++ [⟨.read, s.base p + 0x14#32, v⟩] }) ∧
    ∀ port : Byte, 2 < port.toNat →
      exec (.rdOdata port) s = .fault (.invalidBase port) ∧
      exec (.rdIdata port) s = .fault (.invalidBase port) ∧
      exec (.rdSetrst port) s = .fault (.invalidBase port) ∧
      exec (.rdRstonly port) s = .fault (.invalidBase port)

/-- Rules R88, R91, R95: RD.LOCK, WR.IDATA and WR.LOCK decode, and are refused by name after the port check. The
refusals are the spec's decisions D11 and D12. -/
def Obligations.LockAndInputDataCommandsAreRefused : Prop :=
  (∀ (port : Byte) (w : Word),
    decode ⟨0x02000600#32 ||| port.setWidth 32 <<< 16, w⟩ = .ok (.rdLock port) ∧
    decode ⟨0x03000200#32 ||| port.setWidth 32 <<< 16, w⟩ = .ok (.wrIdata port w) ∧
    decode ⟨0x03000600#32 ||| port.setWidth 32 <<< 16, w⟩ = .ok (.wrLock port w)) ∧
  ∀ (s : State) (w : Word), s.u = 0 →
    (∀ p : Port,
      exec (.rdLock p.code) s = .refused .lockNotModelled ∧
      exec (.wrIdata p.code w) s = .refused .writeToInputData ∧
      exec (.wrLock p.code w) s = .refused .lockNotModelled) ∧
    ∀ port : Byte, 2 < port.toNat →
      exec (.rdLock port) s = .fault (.invalidBase port) ∧
      exec (.wrIdata port w) s = .fault (.invalidBase port) ∧
      exec (.wrLock port w) s = .fault (.invalidBase port)

/-- Rules R89, R90: WR.CFGLO and WR.CFGHI replace all 32 bits of their register, issue one write, change nothing else;
a port operand above 2 faults. -/
def Obligations.WritesOfConfigurationRegisters : Prop :=
  (∀ (port : Byte) (w : Word),
    decode ⟨0x03000000#32 ||| port.setWidth 32 <<< 16, w⟩ = .ok (.wrCfglo port w) ∧
    decode ⟨0x03000100#32 ||| port.setWidth 32 <<< 16, w⟩ = .ok (.wrCfghi port w)) ∧
  ∀ (s : State) (w : Word), s.u = 0 →
    (∀ p : Port, Ready s p →
      exec (.wrCfglo p.code w) s = .next { s with
        ports := s.ports.set p { s.block p with cfglo := w }, result := .none, cp := s.cp + 1, u := 0
        trace := s.trace ++ [⟨.write, s.base p + 0x00#32, w⟩] } ∧
      exec (.wrCfghi p.code w) s = .next { s with
        ports := s.ports.set p { s.block p with cfghi := w }, result := .none, cp := s.cp + 1, u := 0
        trace := s.trace ++ [⟨.write, s.base p + 0x04#32, w⟩] }) ∧
    ∀ port : Byte, 2 < port.toNat →
      exec (.wrCfglo port w) s = .fault (.invalidBase port) ∧ exec (.wrCfghi port w) s = .fault (.invalidBase port)

/-- Rules R92 to R94: WR.ODATA replaces the 16 output bits by the low half of the data (the spec's decision D10);
WR.SETRST clears the output bits of the high half and sets those of the low half, a bit with both as `BSR_CONFLICT` says
(decision D8); WR.RSTONLY clears those of the low half (decision D9); each issues one write and changes nothing else. A
port operand above 2 faults. -/
def Obligations.WritesOfDataRegisters : Prop :=
  (∀ (port : Byte) (w : Word),
    decode ⟨0x03000300#32 ||| port.setWidth 32 <<< 16, w⟩ = .ok (.wrOdata port w) ∧
    decode ⟨0x03000400#32 ||| port.setWidth 32 <<< 16, w⟩ = .ok (.wrSetrst port w) ∧
    decode ⟨0x03000500#32 ||| port.setWidth 32 <<< 16, w⟩ = .ok (.wrRstonly port w)) ∧
  ∀ (s : State) (w : Word), s.u = 0 →
    (∀ p : Port, Ready s p →
      exec (.wrOdata p.code w) s = .next { s with
        ports := s.ports.set p { s.block p with odata := w.extractLsb' 0 16 }, result := .none, cp := s.cp + 1, u := 0
        trace := s.trace ++ [⟨.write, s.base p + 0x0C#32, w⟩] } ∧
      (s.par.bsrConflict = .setWins →
        exec (.wrSetrst p.code w) s = .next { s with
          ports := s.ports.set p { s.block p with
            odata := ((s.block p).odata &&& ~~~(w.extractLsb' 16 16)) ||| w.extractLsb' 0 16 }
          result := .none, cp := s.cp + 1, u := 0
          trace := s.trace ++ [⟨.write, s.base p + 0x10#32, w⟩] }) ∧
      (s.par.bsrConflict = .resetWins →
        exec (.wrSetrst p.code w) s = .next { s with
          ports := s.ports.set p { s.block p with
            odata := ((s.block p).odata ||| w.extractLsb' 0 16) &&& ~~~(w.extractLsb' 16 16) }
          result := .none, cp := s.cp + 1, u := 0
          trace := s.trace ++ [⟨.write, s.base p + 0x10#32, w⟩] }) ∧
      (s.par.bsrConflict = .any →
        ∃ (d : Half) (k : Nat), exec (.wrSetrst p.code w) s = .next { s with
          ports := s.ports.set p { s.block p with
            odata := ((((s.block p).odata &&& ~~~(w.extractLsb' 16 16)) ||| w.extractLsb' 0 16)
              &&& ~~~(w.extractLsb' 0 16 &&& w.extractLsb' 16 16))
              ||| (d &&& (w.extractLsb' 0 16 &&& w.extractLsb' 16 16)) }
          result := .none, cp := s.cp + 1, u := 0, draws := k
          trace := s.trace ++ [⟨.write, s.base p + 0x10#32, w⟩] }) ∧
      exec (.wrRstonly p.code w) s = .next { s with
        ports := s.ports.set p { s.block p with odata := (s.block p).odata &&& ~~~(w.extractLsb' 0 16) }
        result := .none, cp := s.cp + 1, u := 0
        trace := s.trace ++ [⟨.write, s.base p + 0x14#32, w⟩] }) ∧
    ∀ port : Byte, 2 < port.toNat →
      exec (.wrOdata port w) s = .fault (.invalidBase port) ∧
      exec (.wrSetrst port w) s = .fault (.invalidBase port) ∧
      exec (.wrRstonly port w) s = .fault (.invalidBase port)

/-- Rule R12, and the frame of the commands that store: outside the one register word that a command stores to, every
word of the address space holds what it held. The word is CFGLO, CFGHI or ODATA of the port, the configuration register
of the pin, or, for SETRST, RSTONLY, the level commands and the loops, ODATA of the port they reach: for RUNDIAG, at any
setting of the parameters, the port of `DIAG_PORT_ORDER` at `u mod 3`. -/
def Obligations.StoresChangeOneWord : Prop :=
  ∀ (s t : State) (p : Port) (n : Pin) (w addr : Word) (cfg : Byte), s.par.portBase.Legal →
    (exec (.atPort p.code) s = .next t → t.storedWord addr = s.storedWord addr) ∧
    (exec (.rdCfglo p.code) s = .next t ∨ exec (.rdCfghi p.code) s = .next t ∨ exec (.rdIdata p.code) s = .next t ∨
      exec (.rdOdata p.code) s = .next t ∨ exec (.rdSetrst p.code) s = .next t ∨
      exec (.rdRstonly p.code) s = .next t → t.storedWord addr = s.storedWord addr) ∧
    (exec (.wrCfglo p.code w) s = .next t → addr ≠ s.base p + 0x00#32 → t.storedWord addr = s.storedWord addr) ∧
    (exec (.wrCfghi p.code w) s = .next t → addr ≠ s.base p + 0x04#32 → t.storedWord addr = s.storedWord addr) ∧
    (exec (.wrOdata p.code w) s = .next t ∨ exec (.wrSetrst p.code w) s = .next t ∨
      exec (.wrRstonly p.code w) s = .next t → addr ≠ s.base p + 0x0C#32 → t.storedWord addr = s.storedWord addr) ∧
    (exec (.cfgpin p.code (BitVec.ofNat 8 n.val) cfg) s = .next t → addr ≠ slotAddress (s.base p) n →
      t.storedWord addr = s.storedWord addr) ∧
    (exec (.cfgall p.code cfg) s = .next t → addr ≠ slotAddress (s.base p) (passPin s.u) →
      t.storedWord addr = s.storedWord addr) ∧
    (s.drv.ref = s.base p → exec (.initPin p.code (BitVec.ofNat 8 n.val)) s = .next t →
      addr ≠ slotAddress (s.base p) n → t.storedWord addr = s.storedWord addr) ∧
    (s.drv.ref = s.base p → exec .seton s = .next t ∨ exec .setoff s = .next t ∨ exec .runfast s = .next t →
      addr ≠ s.base p + 0x0C#32 → t.storedWord addr = s.storedWord addr) ∧
    (exec .rundiag s = .next t →
      addr ≠ s.base (if s.u % 3 = 0 then s.par.diagOrder.first else if s.u % 3 = 1 then s.par.diagOrder.second
        else s.par.diagOrder.third) + 0x0C#32 → t.storedWord addr = s.storedWord addr)

/-! ## Pin configuration commands -/

/-- Rule R100: the three checks of CFGPIN, in the order port, pin, PinConfig; then its two micro-steps, a read of the
pin's configuration register into the latch, and a write of the latch with the pin's slot replaced. The place of the
checks is the spec's decision D6. -/
def Obligations.CfgpinMicroSteps : Prop :=
  (∀ (port pin cfg : Byte) (w : Word),
    decode ⟨0x04000000#32 ||| port.setWidth 32 <<< 16 ||| pin.setWidth 32 <<< 8 ||| cfg.setWidth 32, w⟩ =
      .ok (.cfgpin port pin cfg)) ∧
  (∀ (s : State) (p : Port) (n : Pin) (port pin cfg : Byte), s.u = 0 → s.par.checked = false →
    (2 < port.toNat → exec (.cfgpin port pin cfg) s = .fault (.invalidBase port)) ∧
    (15 < pin.toNat → exec (.cfgpin p.code pin cfg) s = .fault (.pinOutOfRange pin)) ∧
    (15 < cfg.toNat → exec (.cfgpin p.code (BitVec.ofNat 8 n.val) cfg) s = .fault (.configOutOfRange cfg))) ∧
  ∀ (s : State) (p : Port) (n : Pin) (c : Nibble), Ready s p →
    let addr := s.base p + (if n.val < 8 then 0x00#32 else 0x04#32)
    let sh := (if n.val < 8 then n.val else n.val - 8) % 8 * 4
    let new := (s.drv.t &&& ~~~(0xF#32 <<< sh)) ||| (c.setWidth 32 <<< sh)
    let old := if n.val < 8 then (s.block p).cfglo else (s.block p).cfghi
    (s.u = 0 → exec (.cfgpin p.code (BitVec.ofNat 8 n.val) (c.setWidth 8)) s =
      .next { s with drv := { s.drv with t := old }, u := 1, trace := s.trace ++ [⟨.read, addr, old⟩] }) ∧
    (s.u = 1 → exec (.cfgpin p.code (BitVec.ofNat 8 n.val) (c.setWidth 8)) s =
      .next { s with
        ports := s.ports.set p
          (if n.val < 8 then { s.block p with cfglo := new } else { s.block p with cfghi := new })
        result := .none, cp := s.cp + 1, u := 0, trace := s.trace ++ [⟨.write, addr, new⟩] })

/-- Rule R101: the word that CFGPIN writes holds the PinConfig in the pin's slot and the value that was read in every
other slot, and the slots of the register not selected stay; so from its first micro-step on, undisturbed, CFGPIN leaves
every other slot and every output bit of all the ports. -/
def Obligations.CfgpinPreservesOtherPins : Prop :=
  (∀ (s : State) (p : Port) (n : Pin) (c : Nibble), Ready s p → s.u = 1 →
    ∃ t, exec (.cfgpin p.code (BitVec.ofNat 8 n.val) (c.setWidth 8)) s = .next t ∧ t.slotValue p n = c ∧
      ∀ m : Pin, m ≠ n → t.slotValue p m =
        if (m.val < 8 ↔ n.val < 8) then s.drv.t.extractLsb' (4 * (m.val % 8)) 4 else s.slotValue p m) ∧
  ∀ (s : State) (p : Port) (n : Pin) (c : Nibble), Ready s p → s.u = 0 →
    ∃ t, micro (.cfgpin p.code (BitVec.ofNat 8 n.val) (c.setWidth 8)) 2 s = .next t ∧
      t.slotValue p n = c ∧
      (∀ (q : Port) (m : Pin), (q, m) ≠ (p, n) → t.slotValue q m = s.slotValue q m) ∧
      (∀ (q : Port) (m : Pin), t.outputBit q m = s.outputBit q m) ∧
      t.cp = s.cp + 1 ∧ t.u = 0 ∧ t.drv = { s.drv with t := t.drv.t }

/-- Two CFGPIN commands on different pins of a port leave the same registers in either order (test vector V9 g, from
rule R101). -/
def Obligations.CfgpinOfDifferentPinsCommute : Prop :=
  ∀ (s : State) (p : Port) (n m : Pin) (c d : Nibble), Ready s p → s.u = 0 → n ≠ m →
    let one := (Instr.cfgpin p.code (BitVec.ofNat 8 n.val) (c.setWidth 8), 2)
    let two := (Instr.cfgpin p.code (BitVec.ofNat 8 m.val) (d.setWidth 8), 2)
    ∃ t t', micros [one, two] s = .next t ∧ micros [two, one] s = .next t' ∧ t.ports = t'.ports

/-- Rule R102: the checks of CFGALL, port then PinConfig; then each of its 32 micro-steps, a read of the configuration
register of pin `u div 2` on even `u`, the write of the latch with that pin's slot replaced on odd `u`; the last one
completes the command. -/
def Obligations.CfgallMicroSteps : Prop :=
  (∀ (port cfg : Byte) (w : Word),
    decode ⟨0x05000000#32 ||| port.setWidth 32 <<< 16 ||| cfg.setWidth 32, w⟩ = .ok (.cfgall port cfg)) ∧
  (∀ (s : State) (p : Port) (port cfg : Byte), s.u = 0 →
    (2 < port.toNat → exec (.cfgall port cfg) s = .fault (.invalidBase port)) ∧
    (15 < cfg.toNat → exec (.cfgall p.code cfg) s = .fault (.configOutOfRange cfg))) ∧
  ∀ (s : State) (p : Port) (c : Nibble), Ready s p → s.u < 32 →
    let i := s.u / 2
    let addr := s.base p + (if i < 8 then 0x00#32 else 0x04#32)
    let sh := 4 * (if i < 8 then i else i - 8)
    let new := (s.drv.t &&& ~~~(0xF#32 <<< sh)) ||| (c.setWidth 32 <<< sh)
    let old := if i < 8 then (s.block p).cfglo else (s.block p).cfghi
    (s.u % 2 = 0 → exec (.cfgall p.code (c.setWidth 8)) s =
      .next { s with drv := { s.drv with t := old }, u := s.u + 1, trace := s.trace ++ [⟨.read, addr, old⟩] }) ∧
    (s.u % 2 = 1 → exec (.cfgall p.code (c.setWidth 8)) s =
      .next { s with
        ports := s.ports.set p (if i < 8 then { s.block p with cfglo := new } else { s.block p with cfghi := new })
        result := if s.u = 31 then .none else s.result
        cp := if s.u = 31 then s.cp + 1 else s.cp
        u := if s.u = 31 then 0 else s.u + 1
        trace := s.trace ++ [⟨.write, addr, new⟩] })

/-- Rules R101 to R103: after CFGALL both configuration registers of the port hold the PinConfig in all eight slots,
whatever they held (R103, the spec's own inference from R101); nothing else of the registers has changed; 32
transactions were issued (R102). -/
def Obligations.CfgallFillsBothRegisters : Prop :=
  ∀ (s : State) (p : Port) (c : Nibble), Ready s p → s.u = 0 →
    ∃ t, micro (.cfgall p.code (c.setWidth 8)) 32 s = .next t ∧
      t.ports = s.ports.set p { s.block p with
        cfglo := c.setWidth 32 * 0x11111111#32, cfghi := c.setWidth 32 * 0x11111111#32 } ∧
      t.cp = s.cp + 1 ∧ t.u = 0 ∧ t.trace.length = s.trace.length + 32

/-- Rule R102: CFGALL leaves the same registers, the same latch and the same sequence of bus transactions as sixteen
CFGPIN commands on pins 0, 1, ..., 15 in that order. -/
def Obligations.CfgallIsSixteenCfgpins : Prop :=
  ∀ (s : State) (p : Port) (c : Nibble), Ready s p → s.u = 0 →
    ∃ t t', micro (.cfgall p.code (c.setWidth 8)) 32 s = .next t ∧
      micros ((List.range 16).map fun n => (.cfgpin p.code (BitVec.ofNat 8 n) (c.setWidth 8), 2)) s = .next t' ∧
      t.ports = t'.ports ∧ t.drv = t'.drv ∧ t.trace = t'.trace

/-! ## Pin level control commands -/

/-- Rule R110: the checks of INIT, port then pin; then its two micro-steps, the select and the read, then the write
with the default PinConfig 0x3 and the masks; whether or not the driver was initialised before. The place of the
checks is the spec's decision D6, the repeated INIT is decision D17. -/
def Obligations.InitMicroSteps : Prop :=
  (∀ (port pin : Byte) (w : Word),
    decode ⟨0x06000000#32 ||| port.setWidth 32 <<< 16 ||| pin.setWidth 32 <<< 8, w⟩ = .ok (.initPin port pin)) ∧
  (∀ (s : State) (p : Port) (port pin : Byte), s.u = 0 → s.par.checked = false →
    (2 < port.toNat → exec (.initPin port pin) s = .fault (.invalidBase port)) ∧
    (15 < pin.toNat → exec (.initPin p.code pin) s = .fault (.pinOutOfRange pin))) ∧
  ∀ (s : State) (p : Port) (n : Pin), Ready s p →
    let addr := s.base p + (if n.val < 8 then 0x00#32 else 0x04#32)
    let sh := 4 * (if n.val < 8 then n.val else n.val - 8)
    let new := (s.drv.t &&& ~~~(0xF#32 <<< sh)) ||| (0x3#32 <<< sh)
    let old := if n.val < 8 then (s.block p).cfglo else (s.block p).cfghi
    (s.u = 0 → exec (.initPin p.code (BitVec.ofNat 8 n.val)) s =
      .next { s with
        drv := { s.drv with ref := s.base p, t := old }, u := 1, trace := s.trace ++ [⟨.read, addr, old⟩] }) ∧
    (s.u = 1 → s.drv.ref = s.base p → exec (.initPin p.code (BitVec.ofNat 8 n.val)) s =
      .next { s with
        ports := s.ports.set p
          (if n.val < 8 then { s.block p with cfglo := new } else { s.block p with cfghi := new })
        drv := { s.drv with offMask := 1#32 <<< n.val, onMask := 1#32 <<< (n.val + 16), inited := true }
        result := .none, cp := s.cp + 1, u := 0, trace := s.trace ++ [⟨.write, addr, new⟩] })

/-- Rules R110, R28: INIT, from its first micro-step, initialises the driver for its pin and configures the pin as
0x3; no other slot and no output bit of any pin changes, whether or not the driver was initialised before. The
repeated INIT is the spec's decision D17. -/
def Obligations.InitConfiguresAndStoresMasks : Prop :=
  ∀ (s : State) (p : Port) (n : Pin), Ready s p → s.u = 0 →
    ∃ t, micro (.initPin p.code (BitVec.ofNat 8 n.val)) 2 s = .next t ∧ InitedFor t p n ∧
      t.slotValue p n = 0x3 ∧
      (∀ (q : Port) (m : Pin), (q, m) ≠ (p, n) → t.slotValue q m = s.slotValue q m) ∧
      (∀ (q : Port) (m : Pin), t.outputBit q m = s.outputBit q m) ∧ t.cp = s.cp + 1 ∧ t.u = 0

/-- Rule R111: SETON writes the on mask to SETRST of the selected port: the output bit of the pin becomes 0, the other
15 stay; no configuration register and no driver state changes; under every setting of `BSR_CONFLICT`. Before INIT it
faults. The fault is the spec's decision D6, the place of the output bit decision D10. -/
def Obligations.SetonClearsTheOutputBit : Prop :=
  decode ⟨0x07000000, 0⟩ = .ok .seton ∧
  (∀ s : State, s.u = 0 → s.drv.inited = false → s.par.checked = false → exec .seton s = .fault .notInitialized) ∧
  ∀ (s : State) (p : Port) (n : Pin), InitedFor s p n → Ready s p → s.u = 0 →
    exec .seton s = .next { s with
      ports := s.ports.set p { s.block p with odata := (s.block p).odata &&& ~~~(1#16 <<< n.val) }
      result := .none, cp := s.cp + 1, u := 0
      trace := s.trace ++ [⟨.write, s.base p + 0x10#32, 1#32 <<< (n.val + 16)⟩] }

/-- Rule R112: SETOFF writes the off mask to the same register: the output bit of the pin becomes 1, the other 15
stay. Before INIT it faults. -/
def Obligations.SetoffSetsTheOutputBit : Prop :=
  decode ⟨0x08000000, 0⟩ = .ok .setoff ∧
  (∀ s : State, s.u = 0 → s.drv.inited = false → s.par.checked = false → exec .setoff s = .fault .notInitialized) ∧
  ∀ (s : State) (p : Port) (n : Pin), InitedFor s p n → Ready s p → s.u = 0 →
    exec .setoff s = .next { s with
      ports := s.ports.set p { s.block p with odata := (s.block p).odata ||| (1#16 <<< n.val) }
      result := .none, cp := s.cp + 1, u := 0
      trace := s.trace ++ [⟨.write, s.base p + 0x10#32, 1#32 <<< n.val⟩] }

/-- Rules R28, R115: from either state of the pin SETON leaves it DRIVEN_LOW and SETOFF leaves it DRIVEN_HIGH; with
the configuration that INIT applies, that is electrical low and electrical high. That the state is ODATA bit N is the
spec's inference from R17 and R19. -/
def Obligations.LevelStateMachine : Prop :=
  ∀ (s : State) (p : Port) (n : Pin), InitedFor s p n → Ready s p → s.u = 0 →
    (∃ t, exec .seton s = .next t ∧ t.levelState p n = .drivenLow ∧
      (s.slotValue p n = 0x3 → t.electricallyHigh p n = some false) ∧
      ∀ q m, (q, m) ≠ (p, n) → t.levelState q m = s.levelState q m) ∧
    (∃ t, exec .setoff s = .next t ∧ t.levelState p n = .drivenHigh ∧
      (s.slotValue p n = 0x3 → t.electricallyHigh p n = some true) ∧
      ∀ q m, (q, m) ≠ (p, n) → t.levelState q m = s.levelState q m)

/-- Rule R113: INIT, SETON, SETOFF issue exactly four transactions; the two writes to SETRST are bit N+16 and bit N.
The four transactions are the spec's inference from R110 to R112. -/
def Obligations.InitOnOffTransactions : Prop :=
  (∀ n : Pin, 1#32 <<< n.val ≠ 1#32 <<< (n.val + 16) ∧ 1#32 <<< n.val &&& 1#32 <<< (n.val + 16) = 0) ∧
  ∀ (s : State) (p : Port) (n : Pin), Ready s p → s.u = 0 →
    let addr := s.base p + (if n.val < 8 then 0x00#32 else 0x04#32)
    ∃ t old new,
      micros [(.initPin p.code (BitVec.ofNat 8 n.val), 2), (.seton, 1), (.setoff, 1)] s = .next t ∧
      t.trace = s.trace ++ [⟨.read, addr, old⟩, ⟨.write, addr, new⟩,
        ⟨.write, s.base p + 0x10#32, 1#32 <<< (n.val + 16)⟩, ⟨.write, s.base p + 0x10#32, 1#32 <<< n.val⟩]

/-- Rule R114: however often SETON (or SETOFF) is repeated, each issues the same write as the first, and the registers
and the driver are as the first left them. It is the spec's inference from R111 and R112. -/
def Obligations.LevelCommandsAreIdempotent : Prop :=
  ∀ (s : State) (p : Port) (n : Pin) (i : Instr), InitedFor s p n → Ready s p → s.u = 0 → i = .seton ∨ i = .setoff →
    ∃ t x, exec i s = .next t ∧ t.trace = s.trace ++ [x] ∧ t.drv = s.drv ∧
      ∀ k, ∃ t', micros (List.replicate (k + 1) (i, 1)) s = .next t' ∧
        t'.ports = t.ports ∧ t'.drv = s.drv ∧ t'.trace = s.trace ++ List.replicate (k + 1) x

/-- Rule R135: where `CHECKED` is true, a pin out of range and use before INIT are reported with no effect and the run
goes on with the next command, and the other two conditions stay faults; this hardware has it false. That the report
shows on the result port is the model's choice (log entry 7). -/
def Obligations.CheckedVariantReports : Prop :=
  State.reset.par.checked = false ∧
  ∀ (s : State) (p : Port) (n : Pin) (port pin cfg : Byte), s.u = 0 → s.par.checked = true →
    (15 < pin.toNat →
      exec (.cfgpin p.code pin cfg) s =
        .next { s with result := .reported .outOfRangePinIndex, cp := s.cp + 1, u := 0 } ∧
      exec (.initPin p.code pin) s =
        .next { s with result := .reported .outOfRangePinIndex, cp := s.cp + 1, u := 0 }) ∧
    (s.drv.inited = false →
      exec .seton s = .next { s with result := .reported .driverNotInitialized, cp := s.cp + 1, u := 0 } ∧
      exec .setoff s = .next { s with result := .reported .driverNotInitialized, cp := s.cp + 1, u := 0 } ∧
      exec .runfast s = .next { s with result := .reported .driverNotInitialized, cp := s.cp + 1, u := 0 }) ∧
    (2 < port.toNat → exec (.cfgpin port pin cfg) s = .fault (.invalidBase port) ∧
      exec (.cfgall port cfg) s = .fault (.invalidBase port) ∧
      exec (.initPin port pin) s = .fault (.invalidBase port)) ∧
    (15 < cfg.toNat → exec (.cfgpin p.code (BitVec.ofNat 8 n.val) cfg) s = .fault (.configOutOfRange cfg) ∧
      exec (.cfgall p.code cfg) s = .fault (.configOutOfRange cfg))

/-! ## Waveform commands -/

/-- Rule R120: the two micro-steps of RUNFAST, for this hardware's `FAST_RESET_WORD`: the off mask to RSTONLY, then
the off mask to SETRST and back; `cp` does not advance, nothing else changes. Before INIT it faults. The registers'
effect and the word are the spec's decisions D9 and D14. -/
def Obligations.RunfastMicroSteps : Prop :=
  decode ⟨0x09000000, 0⟩ = .ok .runfast ∧
  (∀ s : State, s.u = 0 → s.drv.inited = false → s.par.checked = false → exec .runfast s = .fault .notInitialized) ∧
  ∀ (s : State) (p : Port) (n : Pin), InitedFor s p n → Ready s p → s.par.fastResetWord = .offMask →
    (s.u = 0 → exec .runfast s = .next { s with
      ports := s.ports.set p { s.block p with odata := (s.block p).odata &&& ~~~(1#16 <<< n.val) }
      u := 1, trace := s.trace ++ [⟨.write, s.base p + 0x14#32, 1#32 <<< n.val⟩] }) ∧
    (s.u = 1 → exec .runfast s = .next { s with
      ports := s.ports.set p { s.block p with odata := (s.block p).odata ||| (1#16 <<< n.val) }
      u := 0, trace := s.trace ++ [⟨.write, s.base p + 0x10#32, 1#32 <<< n.val⟩] })

/-- Rule R6, the parameter `FAST_RESET_WORD` set to a fixed word: RUNFAST writes that word to RSTONLY in its first
micro-step, and the second is unchanged. The range of the word is the model's choice (log entry 3). -/
def Obligations.RunfastWithAFixedResetWord : Prop :=
  ∀ (s : State) (p : Port) (n : Pin) (w : Word), InitedFor s p n → Ready s p → s.par.fastResetWord = .fixed w →
    (s.u = 0 → exec .runfast s = .next { s with
      ports := s.ports.set p { s.block p with odata := (s.block p).odata &&& ~~~(w.extractLsb' 0 16) }
      u := 1, trace := s.trace ++ [⟨.write, s.base p + 0x14#32, w⟩] }) ∧
    (s.u = 1 → exec .runfast s = .next { s with
      ports := s.ports.set p { s.block p with odata := (s.block p).odata ||| (1#16 <<< n.val) }
      u := 0, trace := s.trace ++ [⟨.write, s.base p + 0x10#32, 1#32 <<< n.val⟩] })

/-- Rules R120, R122, R123: RUNFAST never completes: after every number of micro-steps it can go on, `cp` is where it
was, the transactions alternate between RSTONLY and SETRST of the selected port, the pin is low after an odd number
and high after an even one, and no other output bit, no slot and no driver state has changed. It rests on the spec's
decisions D9 and D14. -/
def Obligations.RunfastTogglesForever : Prop :=
  ∀ (s : State) (p : Port) (n : Pin), InitedFor s p n → Ready s p → s.par.fastResetWord = .offMask → s.u = 0 →
    ∀ k, ∃ t, micro .runfast k s = .next t ∧ t.cp = s.cp ∧ t.u = k % 2 ∧ t.drv = s.drv ∧
      t.trace = s.trace ++ (List.range k).map (fun j =>
        ⟨.write, s.base p + (if j % 2 = 0 then 0x14#32 else 0x10#32), 1#32 <<< n.val⟩) ∧
      (0 < k → t.outputBit p n = (k % 2 == 0)) ∧
      (∀ q m, (q, m) ≠ (p, n) → t.outputBit q m = s.outputBit q m) ∧
      ∀ q m, t.slotValue q m = s.slotValue q m

/-- Rule R121: the six micro-steps of RUNDIAG at this hardware's parameters: 0x0000FFFF to RSTONLY of A, B, C, then to
SETRST of A, B, C, and back; `cp` does not advance, nothing else changes. It needs no INIT. The words and the order
are the spec's decision D15. -/
def Obligations.RundiagMicroSteps : Prop :=
  decode ⟨0x0A000000, 0⟩ = .ok .rundiag ∧
  ∀ s : State, (∀ p, Ready s p) → s.par = hardwareParams s.par.portBase → s.u < 6 →
    let p : Port := if s.u % 3 = 0 then .A else if s.u % 3 = 1 then .B else .C
    exec .rundiag s = .next { s with
      ports := s.ports.set p { s.block p with odata := if s.u < 3 then 0x0000#16 else 0xFFFF#16 }
      u := if s.u = 5 then 0 else s.u + 1
      trace := s.trace ++ [⟨.write, s.base p + (if s.u < 3 then 0x14#32 else 0x10#32), 0x0000FFFF#32⟩] }

/-- Rule R6, the parameters `DIAG_RESET_WORD`, `DIAG_SET_WORD`, `DIAG_PORT_ORDER` and `BSR_CONFLICT` at any setting: the
six micro-steps of RUNDIAG. In the reset phase the word clears output bits, as rule R18 says; in the set phase it sets
and clears them as rule R17 says, a bit with both as `BSR_CONFLICT` says (decisions D8, D9; under `any` it is open, and the
count of open values is log entry 4). The range of the settings is the model's choice (log entry 3). -/
def Obligations.RundiagWithAnyParameters : Prop :=
  ∀ s : State, (∀ p, Ready s p) → s.u < 6 →
    let p := if s.u % 3 = 0 then s.par.diagOrder.first else if s.u % 3 = 1 then s.par.diagOrder.second
      else s.par.diagOrder.third
    let old := (s.block p).odata
    let set := s.par.diagSetWord.extractLsb' 0 16
    let rst := s.par.diagSetWord.extractLsb' 16 16
    (s.u < 3 → exec .rundiag s = .next { s with
      ports := s.ports.set p { s.block p with odata := old &&& ~~~(s.par.diagResetWord.extractLsb' 0 16) }
      u := s.u + 1
      trace := s.trace ++ [⟨.write, s.base p + 0x14#32, s.par.diagResetWord⟩] }) ∧
    (3 ≤ s.u → ∃ (odata : Half) (k : Nat), exec .rundiag s = .next { s with
        ports := s.ports.set p { s.block p with odata := odata }
        u := if s.u = 5 then 0 else s.u + 1, draws := k
        trace := s.trace ++ [⟨.write, s.base p + 0x10#32, s.par.diagSetWord⟩] } ∧
      (s.par.bsrConflict = .setWins → odata = (old &&& ~~~rst) ||| set ∧ k = s.draws) ∧
      (s.par.bsrConflict = .resetWins → odata = (old ||| set) &&& ~~~rst ∧ k = s.draws) ∧
      (s.par.bsrConflict = .any →
        ∃ d, odata = (((old &&& ~~~rst) ||| set) &&& ~~~(set &&& rst)) ||| (d &&& (set &&& rst))))

/-- Rules R121 to R123: RUNDIAG never completes: after every number of micro-steps it can go on, `cp` is where it was,
and the transactions repeat reset A, B, C, set A, B, C; no slot and no driver state has changed. The words and the
port order are the spec's decision D15. -/
def Obligations.RundiagPatternForever : Prop :=
  ∀ s : State, (∀ p, Ready s p) → s.par = hardwareParams s.par.portBase → s.u = 0 →
    ∀ k, ∃ t, micro .rundiag k s = .next t ∧ t.cp = s.cp ∧ t.u = k % 6 ∧ t.drv = s.drv ∧
      t.trace = s.trace ++ (List.range k).map (fun j =>
        ⟨.write, s.base (if j % 3 = 0 then .A else if j % 3 = 1 then .B else .C) +
          (if j % 6 < 3 then 0x14#32 else 0x10#32), 0x0000FFFF#32⟩) ∧
      ∀ q m, t.slotValue q m = s.slotValue q m

/-! ## The other agent -/

/-- Rule R51: a write of another agent to the configuration register, between the read and the write of a CFGPIN, is
overwritten in the seven slots that CFGPIN meant to preserve: the register ends as if it had not happened. The turns
are log entry 10. -/
def Obligations.LostUpdateOfConfiguration : Prop :=
  ∀ (s : State) (p : Port) (n : Pin) (c : Nibble) (com : Command) (w : Word), Ready s p → s.u = 0 →
    s.stream[s.cp]? = some com → decode com = .ok (.cfgpin p.code (BitVec.ofNat 8 n.val) (c.setWidth 8)) →
    s.turns = [.driver, .other (.write (s.base p + if n.val < 8 then 0x00#32 else 0x04#32) w), .driver] →
    ∃ t, Host.Core.run core 3 s = .next t ∧ t.slotValue p n = c ∧
      ∀ (q : Port) (m : Pin), (q, m) ≠ (p, n) → t.slotValue q m = s.slotValue q m

/-- Rule R155: two writes to SETRST that change different pins, in either order, leave the same state, in which each of
the two pins has the output bit that its own write gives it (1 for bit N, 0 for bit N+16), so neither change is lost;
every other output bit, and everything else of the state, is as before. -/
def Obligations.SetrstWritesOfDifferentPinsCommute : Prop :=
  ∀ (s : State) (p : Port) (n m : Pin) (v w : Word), Ready s p → n ≠ m →
    (v = 1#32 <<< n.val ∨ v = 1#32 <<< (n.val + 16)) → (w = 1#32 <<< m.val ∨ w = 1#32 <<< (m.val + 16)) →
    ∃ t, andThen (memWrite (s.base p + 0x10#32) 4 v s) (memWrite (s.base p + 0x10#32) 4 w) = .next t ∧
      andThen (memWrite (s.base p + 0x10#32) 4 w s) (memWrite (s.base p + 0x10#32) 4 v) = .next t ∧
      (v = 1#32 <<< n.val → t.outputBit p n = true) ∧ (v = 1#32 <<< (n.val + 16) → t.outputBit p n = false) ∧
      (w = 1#32 <<< m.val → t.outputBit p m = true) ∧ (w = 1#32 <<< (m.val + 16) → t.outputBit p m = false) ∧
      (∀ (q : Port) (k : Pin), (q, k) ≠ (p, n) → (q, k) ≠ (p, m) → t.outputBit q k = s.outputBit q k) ∧
      t = { s with ports := s.ports.set p { s.block p with odata := (t.block p).odata } }

/-- Rule R49: an event of the other agent leaves the driver, the sequencer and the driver's transactions as they were.
The events are log entry 10. -/
def Obligations.OtherAgentLeavesTheDriver : Prop :=
  ∀ (s t : State) (e : OtherEvent) (rest : List Turn), s.turns = .other e :: rest → step s = .next t →
    t.drv = s.drv ∧ t.cp = s.cp ∧ t.u = s.u ∧ t.result = s.result ∧ t.trace = s.trace ∧ t.turns = rest

/-! ## Reset, and the whole machine -/

/-- Rules R29, R150: what reset leaves: the OPEN contents in the registers, nothing locked, the driver not
initialised, the sequencer at command 0, micro-step 0; for every setting of the parameters. The OPEN contents are the
spec's decision D7, opaque constants in the model (log entry 5). -/
def Obligations.ResetValues : Prop :=
  State.reset = resetWith State.reset.par ∧
  ∀ par : Params,
    (∀ p, ((resetWith par).block p).cfglo = Config.resetCfglo p ∧
      ((resetWith par).block p).cfghi = Config.resetCfghi p ∧
      ((resetWith par).block p).odata = Config.resetOdata p ∧
      ((resetWith par).block p).locked = false) ∧
    (resetWith par).drv.inited = false ∧ (resetWith par).cp = 0 ∧ (resetWith par).u = 0

/-- The invariant holds at reset, for every legal setting of `PORT_BASE`. The invariant is the model's; the two
premises are log entries 8 and 9. -/
def Obligations.InvariantAtReset : Prop :=
  Inv State.reset ∧ ∀ par : Params, par.portBase.Legal → Inv (resetWith par)

/-- Every step keeps the invariant: the bases and the premises of the run, a stored reference that is the base of a
port and stored masks that are those of a pin, a micro-step that the current command has, and no transaction of the
driver outside the 21 words. The invariant is the model's. -/
def Obligations.StepKeepsTheInvariant : Prop := ∀ s t : State, Inv s → step s = .next t → Inv t

/-- Rule R130: under the invariant, where it is the driver's turn, a command with legal operands, initialised where it
needs to be, and not one that the spec refuses, always has a next state, at every micro-step. The invariant is the
model's. -/
def Obligations.LegalCommandsNeverStop : Prop :=
  ∀ (s : State) (i : Instr), Inv s → s.turns = [] → s.current = some i → i.wellFormed = true →
    refusedBySpec i = false → (i.needsInit = true → s.drv.inited = true) → ∃ t, step s = .next t

/-- Rules R131, R132: under the invariant the driver stops only for the named reasons: a port operand above 2, a pin
operand above 15, a PinConfig operand above 15, a level-control command before INIT, a reserved control word, a
command the spec refuses, or the end of the stream. The names and the end of the stream are the spec's decisions D2,
D6, D11, D12 and log entry 1. -/
def Obligations.DriverStopsOnlyForNamedReasons : Prop :=
  ∀ s : State, Inv s → s.turns = [] →
    (∀ f, step s = .fault f →
      ∃ i, s.current = some i ∧
        ((∃ port, i.port? = some port ∧ 2 < port.toNat ∧ f = .invalidBase port) ∨
         (∃ pin, i.pin? = some pin ∧ 15 < pin.toNat ∧ f = .pinOutOfRange pin) ∨
         (∃ cfg, i.cfg? = some cfg ∧ 15 < cfg.toNat ∧ f = .configOutOfRange cfg) ∨
         (i.needsInit = true ∧ s.drv.inited = false ∧ f = .notInitialized))) ∧
    ∀ r, step s = .refused r →
      (s.stream[s.cp]? = none ∧ r = .endOfStream) ∨
      (∃ c, s.stream[s.cp]? = some c ∧ s.current = none ∧ r = .illegalCommand c.cw) ∨
      (∃ i, s.current = some i ∧ refusedBySpec i = true ∧ (r = .lockNotModelled ∨ r = .writeToInputData))
end

