-- ==== Sys2Proof/Laws/State.lean ====
section
/-! SUPPORT. The small lemmas of the state updates: what each update leaves in each field, true by rfl. -/

namespace Sys2Proof.Machine

variable (s : State)

@[simp] theorem State.complete_par (r : Response) : (s.complete r).par = s.par := rfl
@[simp] theorem State.complete_ports (r : Response) : (s.complete r).ports = s.ports := rfl
@[simp] theorem State.complete_drv (r : Response) : (s.complete r).drv = s.drv := rfl
@[simp] theorem State.complete_cp (r : Response) : (s.complete r).cp = s.cp + 1 := rfl
@[simp] theorem State.complete_u (r : Response) : (s.complete r).u = 0 := rfl
@[simp] theorem State.complete_stream (r : Response) : (s.complete r).stream = s.stream := rfl
@[simp] theorem State.complete_result (r : Response) : (s.complete r).result = r := rfl
@[simp] theorem State.complete_trace (r : Response) : (s.complete r).trace = s.trace := rfl
@[simp] theorem State.complete_turns (r : Response) : (s.complete r).turns = s.turns := rfl
@[simp] theorem State.complete_otherT (r : Response) : (s.complete r).otherT = s.otherT := rfl
@[simp] theorem State.complete_draws (r : Response) : (s.complete r).draws = s.draws := rfl

@[simp] theorem State.goto_par (n : Nat) : (s.goto n).par = s.par := rfl
@[simp] theorem State.goto_ports (n : Nat) : (s.goto n).ports = s.ports := rfl
@[simp] theorem State.goto_drv (n : Nat) : (s.goto n).drv = s.drv := rfl
@[simp] theorem State.goto_cp (n : Nat) : (s.goto n).cp = s.cp := rfl
@[simp] theorem State.goto_u (n : Nat) : (s.goto n).u = n := rfl
@[simp] theorem State.goto_stream (n : Nat) : (s.goto n).stream = s.stream := rfl
@[simp] theorem State.goto_result (n : Nat) : (s.goto n).result = s.result := rfl
@[simp] theorem State.goto_trace (n : Nat) : (s.goto n).trace = s.trace := rfl
@[simp] theorem State.goto_turns (n : Nat) : (s.goto n).turns = s.turns := rfl
@[simp] theorem State.goto_otherT (n : Nat) : (s.goto n).otherT = s.otherT := rfl
@[simp] theorem State.goto_draws (n : Nat) : (s.goto n).draws = s.draws := rfl

@[simp] theorem State.issue_par (x : Transaction) : (s.issue x).par = s.par := rfl
@[simp] theorem State.issue_ports (x : Transaction) : (s.issue x).ports = s.ports := rfl
@[simp] theorem State.issue_drv (x : Transaction) : (s.issue x).drv = s.drv := rfl
@[simp] theorem State.issue_cp (x : Transaction) : (s.issue x).cp = s.cp := rfl
@[simp] theorem State.issue_u (x : Transaction) : (s.issue x).u = s.u := rfl
@[simp] theorem State.issue_stream (x : Transaction) : (s.issue x).stream = s.stream := rfl
@[simp] theorem State.issue_result (x : Transaction) : (s.issue x).result = s.result := rfl
@[simp] theorem State.issue_trace (x : Transaction) : (s.issue x).trace = s.trace ++ [x] := rfl
@[simp] theorem State.issue_turns (x : Transaction) : (s.issue x).turns = s.turns := rfl
@[simp] theorem State.issue_otherT (x : Transaction) : (s.issue x).otherT = s.otherT := rfl
@[simp] theorem State.issue_draws (x : Transaction) : (s.issue x).draws = s.draws := rfl

@[simp] theorem State.latch_par (v : Word) : (s.latch v).par = s.par := rfl
@[simp] theorem State.latch_ports (v : Word) : (s.latch v).ports = s.ports := rfl
@[simp] theorem State.latch_drv (v : Word) : (s.latch v).drv = { s.drv with t := v } := rfl
@[simp] theorem State.latch_cp (v : Word) : (s.latch v).cp = s.cp := rfl
@[simp] theorem State.latch_u (v : Word) : (s.latch v).u = s.u := rfl
@[simp] theorem State.latch_stream (v : Word) : (s.latch v).stream = s.stream := rfl
@[simp] theorem State.latch_result (v : Word) : (s.latch v).result = s.result := rfl
@[simp] theorem State.latch_trace (v : Word) : (s.latch v).trace = s.trace := rfl
@[simp] theorem State.latch_turns (v : Word) : (s.latch v).turns = s.turns := rfl
@[simp] theorem State.latch_otherT (v : Word) : (s.latch v).otherT = s.otherT := rfl
@[simp] theorem State.latch_draws (v : Word) : (s.latch v).draws = s.draws := rfl

@[simp] theorem State.select_par (ref : Word) : (s.select ref).par = s.par := rfl
@[simp] theorem State.select_ports (ref : Word) : (s.select ref).ports = s.ports := rfl
@[simp] theorem State.select_drv (ref : Word) : (s.select ref).drv = { s.drv with ref := ref } := rfl
@[simp] theorem State.select_cp (ref : Word) : (s.select ref).cp = s.cp := rfl
@[simp] theorem State.select_u (ref : Word) : (s.select ref).u = s.u := rfl
@[simp] theorem State.select_stream (ref : Word) : (s.select ref).stream = s.stream := rfl
@[simp] theorem State.select_result (ref : Word) : (s.select ref).result = s.result := rfl
@[simp] theorem State.select_trace (ref : Word) : (s.select ref).trace = s.trace := rfl
@[simp] theorem State.select_turns (ref : Word) : (s.select ref).turns = s.turns := rfl
@[simp] theorem State.select_otherT (ref : Word) : (s.select ref).otherT = s.otherT := rfl
@[simp] theorem State.select_draws (ref : Word) : (s.select ref).draws = s.draws := rfl

@[simp] theorem State.storeMasks_par (n : Pin) : (s.storeMasks n).par = s.par := rfl
@[simp] theorem State.storeMasks_ports (n : Pin) : (s.storeMasks n).ports = s.ports := rfl
@[simp] theorem State.storeMasks_drv (n : Pin) : (s.storeMasks n).drv = { s.drv with offMask := offMaskOf n, onMask := onMaskOf n, inited := true } := rfl
@[simp] theorem State.storeMasks_cp (n : Pin) : (s.storeMasks n).cp = s.cp := rfl
@[simp] theorem State.storeMasks_u (n : Pin) : (s.storeMasks n).u = s.u := rfl
@[simp] theorem State.storeMasks_stream (n : Pin) : (s.storeMasks n).stream = s.stream := rfl
@[simp] theorem State.storeMasks_result (n : Pin) : (s.storeMasks n).result = s.result := rfl
@[simp] theorem State.storeMasks_trace (n : Pin) : (s.storeMasks n).trace = s.trace := rfl
@[simp] theorem State.storeMasks_turns (n : Pin) : (s.storeMasks n).turns = s.turns := rfl
@[simp] theorem State.storeMasks_otherT (n : Pin) : (s.storeMasks n).otherT = s.otherT := rfl
@[simp] theorem State.storeMasks_draws (n : Pin) : (s.storeMasks n).draws = s.draws := rfl

@[simp] theorem State.setBlock_par (p : Port) (k : PortBlock) : (s.setBlock p k).par = s.par := rfl
@[simp] theorem State.setBlock_ports (p : Port) (k : PortBlock) : (s.setBlock p k).ports = s.ports.set p k := rfl
@[simp] theorem State.setBlock_drv (p : Port) (k : PortBlock) : (s.setBlock p k).drv = s.drv := rfl
@[simp] theorem State.setBlock_cp (p : Port) (k : PortBlock) : (s.setBlock p k).cp = s.cp := rfl
@[simp] theorem State.setBlock_u (p : Port) (k : PortBlock) : (s.setBlock p k).u = s.u := rfl
@[simp] theorem State.setBlock_stream (p : Port) (k : PortBlock) : (s.setBlock p k).stream = s.stream := rfl
@[simp] theorem State.setBlock_result (p : Port) (k : PortBlock) : (s.setBlock p k).result = s.result := rfl
@[simp] theorem State.setBlock_trace (p : Port) (k : PortBlock) : (s.setBlock p k).trace = s.trace := rfl
@[simp] theorem State.setBlock_turns (p : Port) (k : PortBlock) : (s.setBlock p k).turns = s.turns := rfl
@[simp] theorem State.setBlock_otherT (p : Port) (k : PortBlock) : (s.setBlock p k).otherT = s.otherT := rfl
@[simp] theorem State.setBlock_draws (p : Port) (k : PortBlock) : (s.setBlock p k).draws = s.draws := rfl

@[simp] theorem draw_value (d : DrawSite) : (draw d s).1 = Config.draw32 d s.draws := rfl
@[simp] theorem draw_par (d : DrawSite) : (draw d s).2.par = s.par := rfl
@[simp] theorem draw_ports (d : DrawSite) : (draw d s).2.ports = s.ports := rfl
@[simp] theorem draw_drv (d : DrawSite) : (draw d s).2.drv = s.drv := rfl
@[simp] theorem draw_cp (d : DrawSite) : (draw d s).2.cp = s.cp := rfl
@[simp] theorem draw_u (d : DrawSite) : (draw d s).2.u = s.u := rfl
@[simp] theorem draw_stream (d : DrawSite) : (draw d s).2.stream = s.stream := rfl
@[simp] theorem draw_result (d : DrawSite) : (draw d s).2.result = s.result := rfl
@[simp] theorem draw_trace (d : DrawSite) : (draw d s).2.trace = s.trace := rfl
@[simp] theorem draw_turns (d : DrawSite) : (draw d s).2.turns = s.turns := rfl
@[simp] theorem draw_otherT (d : DrawSite) : (draw d s).2.otherT = s.otherT := rfl
@[simp] theorem draw_draws (d : DrawSite) : (draw d s).2.draws = s.draws + 1 := rfl

@[simp] theorem Ports.get_set_same (ps : Ports) (p : Port) (k : PortBlock) : (ps.set p k).get p = k := by
  cases p <;> rfl

theorem Ports.get_set_other (ps : Ports) {p q : Port} (k : PortBlock) (h : q ≠ p) : (ps.set p k).get q = ps.get q := by
  cases p <;> cases q <;> first | rfl | exact absurd rfl h

theorem Ports.get_set (ps : Ports) (p q : Port) (k : PortBlock) :
    (ps.set p k).get q = if q = p then k else ps.get q := by
  cases p <;> cases q <;> rfl

@[simp] theorem Ports.set_get_self (ps : Ports) (p : Port) : ps.set p (ps.get p) = ps := by
  cases p <;> rfl

@[simp] theorem Ports.set_set (ps : Ports) (p : Port) (k l : PortBlock) : (ps.set p k).set p l = ps.set p l := by
  cases p <;> rfl

@[simp] theorem State.setBlock_block_same (p : Port) (k : PortBlock) : (s.setBlock p k).block p = k :=
  Ports.get_set_same s.ports p k

theorem State.setBlock_block (p q : Port) (k : PortBlock) :
    (s.setBlock p k).block q = if q = p then k else s.block q :=
  Ports.get_set s.ports p q k

theorem State.setBlock_block_other {p q : Port} (k : PortBlock) (h : q ≠ p) :
    (s.setBlock p k).block q = s.block q :=
  Ports.get_set_other s.ports k h

@[simp] theorem State.complete_block (r : Response) (q : Port) : (s.complete r).block q = s.block q := rfl
@[simp] theorem State.complete_base (r : Response) (q : Port) : (s.complete r).base q = s.base q := rfl
@[simp] theorem State.goto_block (n : Nat) (q : Port) : (s.goto n).block q = s.block q := rfl
@[simp] theorem State.goto_base (n : Nat) (q : Port) : (s.goto n).base q = s.base q := rfl
@[simp] theorem State.issue_block (x : Transaction) (q : Port) : (s.issue x).block q = s.block q := rfl
@[simp] theorem State.issue_base (x : Transaction) (q : Port) : (s.issue x).base q = s.base q := rfl
@[simp] theorem State.latch_block (v : Word) (q : Port) : (s.latch v).block q = s.block q := rfl
@[simp] theorem State.latch_base (v : Word) (q : Port) : (s.latch v).base q = s.base q := rfl
@[simp] theorem State.select_block (ref : Word) (q : Port) : (s.select ref).block q = s.block q := rfl
@[simp] theorem State.select_base (ref : Word) (q : Port) : (s.select ref).base q = s.base q := rfl
@[simp] theorem State.storeMasks_block (n : Pin) (q : Port) : (s.storeMasks n).block q = s.block q := rfl
@[simp] theorem State.storeMasks_base (n : Pin) (q : Port) : (s.storeMasks n).base q = s.base q := rfl
@[simp] theorem State.setBlock_base (p : Port) (k : PortBlock) (q : Port) : (s.setBlock p k).base q = s.base q := rfl
@[simp] theorem draw_block (d : DrawSite) (q : Port) : (draw d s).2.block q = s.block q := rfl

end Sys2Proof.Machine
end

