-- ==== Sys2Proof/Laws/Operands.lean ====
section
/-! SUPPORT. Lemmas about the operand forms: which operands name a port, a pin, a PinConfig, and what the checks at
the start of a command do with them. -/

namespace Sys2Proof.Machine

@[simp] theorem portOf_code (p : Port) : portOf p.code = some p := by cases p <;> rfl

/-- A port operand names a port or is above 2. -/
theorem portOf_cases (port : Byte) :
    (∃ p, port = Port.code p ∧ portOf port = some p) ∨ (2 < port.toNat ∧ portOf port = none) := by
  by_cases h : port.toNat < 3
  · left
    have hp : port = BitVec.ofNat 8 port.toNat := by simp
    interval_cases hn : port.toNat
    · exact ⟨.A, hp, by rw [hp]; rfl⟩
    · exact ⟨.B, hp, by rw [hp]; rfl⟩
    · exact ⟨.C, hp, by rw [hp]; rfl⟩
  · right
    refine ⟨by omega, ?_⟩
    unfold portOf
    split <;> first | rfl | omega

theorem portOf_eq_none {port : Byte} (h : 2 < port.toNat) : portOf port = none := by
  rcases portOf_cases port with ⟨p, rfl, -⟩ | ⟨-, h'⟩
  · revert h; cases p <;> decide
  · exact h'

theorem eq_code_of_portOf {port : Byte} {p : Port} (h : portOf port = some p) : port = p.code := by
  rcases portOf_cases port with ⟨q, hq, h'⟩ | ⟨-, h'⟩
  · rw [h] at h'; cases h'; exact hq
  · rw [h] at h'; cases h'

@[simp] theorem pinOf_val (n : Pin) : pinOf (BitVec.ofNat 8 n.val) = some n := by
  revert n; decide

theorem pinOf_eq_none {pin : Byte} (h : 15 < pin.toNat) : pinOf pin = none := by
  unfold pinOf; rw [dif_neg (by omega)]

theorem toNat_of_pinOf_eq_none {pin : Byte} (h : pinOf pin = none) : 15 < pin.toNat := by
  unfold pinOf at h
  split at h
  · cases h
  · omega

theorem pinOf_eq_some {pin : Byte} {n : Pin} (h : pinOf pin = some n) : pin = BitVec.ofNat 8 n.val := by
  unfold pinOf at h
  split at h
  · cases h; simp
  · cases h

@[simp] theorem cfgOf_setWidth (c : Nibble) : cfgOf (c.setWidth 8) = some c := by
  revert c; decide

theorem eq_setWidth_of_cfgOf {cfg : Byte} {c : Nibble} (h : cfgOf cfg = some c) : cfg = c.setWidth 8 := by
  unfold cfgOf at h
  split at h
  · cases h
    apply BitVec.eq_of_toNat_eq
    simp
    omega
  · cases h

theorem cfgOf_eq_none {cfg : Byte} (h : 15 < cfg.toNat) : cfgOf cfg = none := by
  unfold cfgOf; rw [if_neg (by omega)]

@[simp] theorem withPort_code (p : Port) (k : Port → Attempt State) : withPort p.code k = k p := by
  simp [withPort]

theorem withPort_illegal {port : Byte} (h : 2 < port.toNat) (k : Port → Attempt State) :
    withPort port k = .fault (.invalidBase port) := by
  simp [withPort, portOf_eq_none h]

@[simp] theorem withPin_val (n : Pin) (s : State) (k : Pin → Attempt State) :
    withPin (BitVec.ofNat 8 n.val) s k = k n := by
  simp [withPin]

theorem withPin_illegal {pin : Byte} (h : 15 < pin.toNat) (s : State) (k : Pin → Attempt State) :
    withPin pin s k = misuse (.pinOutOfRange pin) .outOfRangePinIndex s := by
  simp [withPin, pinOf_eq_none h]

@[simp] theorem withCfg_nibble (c : Nibble) (k : Nibble → Attempt State) : withCfg (c.setWidth 8) k = k c := by
  simp [withCfg]

theorem withCfg_illegal {cfg : Byte} (h : 15 < cfg.toNat) (k : Nibble → Attempt State) :
    withCfg cfg k = .fault (.configOutOfRange cfg) := by
  simp [withCfg, cfgOf_eq_none h]

theorem withPort_next {port : Byte} {k : Port → Attempt State} {t : State} (h : withPort port k = .next t) :
    ∃ p, port = Port.code p ∧ k p = .next t := by
  unfold withPort at h
  split at h
  · exact ⟨_, eq_code_of_portOf ‹_›, h⟩
  · cases h

/-- What the pin check can do: go on with the pin, or report the condition. -/
theorem withPin_next {pin : Byte} {s t : State} {k : Pin → Attempt State} (h : withPin pin s k = .next t) :
    (∃ n : Pin, pin = BitVec.ofNat 8 n.val ∧ k n = .next t) ∨
      (15 < pin.toNat ∧ s.par.checked = true ∧ t = s.complete (.reported .outOfRangePinIndex)) := by
  unfold withPin at h
  split at h
  · exact .inl ⟨_, pinOf_eq_some ‹_›, h⟩
  · unfold misuse at h
    split at h
    · exact .inr ⟨toNat_of_pinOf_eq_none ‹_›, ‹_›, by cases h; rfl⟩
    · cases h

theorem withCfg_next {cfg : Byte} {k : Nibble → Attempt State} {t : State} (h : withCfg cfg k = .next t) :
    ∃ c : Nibble, cfg = c.setWidth 8 ∧ k c = .next t := by
  unfold withCfg at h
  split at h
  · exact ⟨_, eq_setWidth_of_cfgOf ‹_›, h⟩
  · cases h

/-- What the check for INIT can do: go on, or report the condition. -/
theorem whenInited_next {s t : State} {k : Attempt State} (h : whenInited s k = .next t) :
    (s.drv.inited = true ∧ k = .next t) ∨
      (s.drv.inited = false ∧ s.par.checked = true ∧ t = s.complete (.reported .driverNotInitialized)) := by
  unfold whenInited misuse at h
  split at h
  · exact .inl ⟨‹_›, h⟩
  · split at h
    · exact .inr ⟨Bool.eq_false_iff.mpr ‹_›, ‹_›, by cases h; rfl⟩
    · cases h

theorem oneMicroStep_next {s t : State} {k : Attempt State} (h : oneMicroStep s k = .next t) :
    s.u = 0 ∧ k = .next t := by
  unfold oneMicroStep at h
  split at h
  · exact ⟨‹_›, h⟩
  · cases h

/-- Bit by bit, the word of rule R66. -/
theorem packSlot_getLsbD (old : Word) (sh : Nat) (c : Nibble) (b : Nat) (hb : b < 32) (hs : sh ≤ 28) :
    (packSlot old sh c).getLsbD b = if sh ≤ b ∧ b < sh + 4 then c.getLsbD (b - sh) else old.getLsbD b := by
  have e : (0xF#32).getLsbD (b - sh) = decide (b - sh < 4) := by
    have : b - sh < 32 := by omega
    revert this; generalize b - sh = k; revert k; decide
  by_cases h : sh ≤ b
  · by_cases h2 : b < sh + 4
    · have h3 : b - sh < 4 := by omega
      simp [packSlot, slotMask, hb, h, h2, h3, e, Nat.not_lt.mpr h]
    · have h3 : ¬ b - sh < 4 := by omega
      have h4 : c.getLsbD (b - sh) = false := BitVec.getLsbD_of_ge _ _ (by omega)
      simp only [packSlot, slotMask, BitVec.getLsbD_or, BitVec.getLsbD_and, BitVec.getLsbD_not, BitVec.getLsbD_shiftLeft,
        BitVec.getLsbD_setWidth, hb, h, h2, h3, e, h4, Nat.not_lt.mpr h]
      simp
  · simp [packSlot, slotMask, hb, h, show b < sh by omega]

end Sys2Proof.Machine
end

