-- ==== Sys2Proof/Laws/Bus.lean ====
section
/-! SUPPORT. Lemmas about the bus: which addresses select which register, and, once for each bus operation,
everything it can do. -/

namespace Sys2Proof.Machine

@[simp] theorem andThen_next {α β : Type} (a : α) (k : α → Attempt β) : andThen (.next a) k = k a := rfl
@[simp] theorem andThen_fault {α β : Type} (f : Fault) (k : α → Attempt β) : andThen (.fault f) k = .fault f := rfl
@[simp] theorem andThen_refused {α β : Type} (r : Refusal) (k : α → Attempt β) :
    andThen (.refused r) k = .refused r := rfl

theorem andThen_eq_next {α β : Type} {o : Attempt α} {k : α → Attempt β} {b : β} (h : andThen o k = .next b) :
    ∃ a, o = .next a ∧ k a = .next b := by
  cases o with
  | next a => exact ⟨a, rfl, h⟩
  | fault f => cases h
  | refused r => cases h

@[simp] theorem regOfIndex_regIndex (r : Reg) : regOfIndex (regIndex r) = some r := by cases r <;> rfl

theorem regIndex_lt (r : Reg) : regIndex r < 7 := by cases r <;> decide

theorem regOfIndex_eq_some {i : Nat} {r : Reg} (h : regOfIndex i = some r) : i = regIndex r := by
  unfold regOfIndex at h
  split at h <;> cases h <;> rfl

theorem regOffset_toNat (r : Reg) : (regOffset r).toNat = 4 * regIndex r := by cases r <;> rfl

@[simp] theorem regAt_regAddress (ref : Word) (r : Reg) : regAt ref (regAddress ref r) = some r := by
  have h : (regAddress ref r - ref).toNat = 4 * regIndex r := by
    rw [← regOffset_toNat r]; congr 1; unfold regAddress; ring
  simp [regAt, h]

theorem regAt_apart {x y : Word} (h : Bases.Apart x y) (r : Reg) : regAt x (regAddress y r) = none := by
  have hr := regIndex_lt r
  have ho := regOffset_toNat r
  have h2 : 28 ≤ (regAddress y r - x).toNat := by
    unfold regAddress; obtain ⟨h1, h2⟩ := h; bv_omega
  unfold regAt
  simp only
  split
  · unfold regOfIndex; split <;> first | rfl | omega
  · rfl

theorem regAt_eq_some {base addr : Word} {r : Reg} (h : regAt base addr = some r) : addr = regAddress base r := by
  unfold regAt at h
  simp only at h
  split at h
  · have h1 := regOfIndex_eq_some h
    have ho := regOffset_toNat r
    unfold regAddress
    have : addr - base = regOffset r := by
      apply BitVec.eq_of_toNat_eq; omega
    rw [← this]; ring
  · cases h

/-- The address of a register of a port selects that register (rules R40, R41), for legal bases. -/
theorem decodeAddress_regAddress {b : Bases} (h : b.Legal) (p : Port) (r : Reg) :
    decodeAddress b (regAddress (b.get p) r) = some (p, r) := by
  obtain ⟨-, hab, hac, hbc⟩ := h
  cases p
  · simp [decodeAddress, Bases.get]
  · simp [decodeAddress, Bases.get, regAt_apart hab]
  · simp [decodeAddress, Bases.get, regAt_apart hac, regAt_apart hbc]

/-- An address selects a register only if it is the address of that register. -/
theorem decodeAddress_eq_some {b : Bases} {addr : Word} {p : Port} {r : Reg}
    (h : decodeAddress b addr = some (p, r)) : addr = regAddress (b.get p) r := by
  unfold decodeAddress at h
  split at h
  · cases h; exact regAt_eq_some ‹_›
  · split at h
    · cases h; exact regAt_eq_some ‹_›
    · split at h
      · cases h; exact regAt_eq_some ‹_›
      · cases h

theorem regAddress_aligned {b : Bases} (h : b.Legal) (p : Port) (r : Reg) :
    (regAddress (b.get p) r).toNat % 4 = 0 := by
  obtain ⟨⟨ha, hb, hc⟩, -⟩ := h
  have ho := regOffset_toNat r
  have : (b.get p).toNat % 4 = 0 := by cases p <;> assumption
  unfold regAddress
  bv_omega

/-- The access to a register of a port that meets the premises is granted. -/
theorem access_regAddress {s : State} {p : Port} (h : Ready s p) (r : Reg) :
    access (regAddress (s.base p) r) 4 s = .next (p, r) := by
  obtain ⟨hb, hc, hl⟩ := h
  simp [access, State.base, regAddress_aligned hb, decodeAddress_regAddress hb, hc, hl]

/-- What a granted access means: 4 bytes, an address of one of the 21 words, the premises of its port. -/
theorem access_next {s : State} {addr : Word} {n : Nat} {a : Port × Reg} (h : access addr n s = .next a) :
    n = 4 ∧ addr.toNat % 4 = 0 ∧ decodeAddress s.par.portBase addr = some a ∧ Live s a.1 := by
  unfold access at h
  split at h
  · cases h
  · split at h
    · cases h
    · split at h
      · cases h
      · split at h
        · cases h
        · split at h
          · cases h
          · cases h
            exact ⟨by omega, by omega, ‹_›, by simp_all [Live]⟩

/-- What a register read can do: the stored word with nothing changed, or a free value with one more draw. -/
theorem readReg_next {p : Port} {r : Reg} {s : State} {a : Word × State} (h : readReg p r s = .next a) :
    (a.2 = s ∧ storedReg (s.block p) r = some a.1) ∨
      (a.2 = { s with draws := s.draws + 1 } ∧ storedReg (s.block p) r = none) := by
  cases r <;> simp only [readReg] at h <;> cases h <;> simp [storedReg, draw]

/-- What a register write can do: only the port's CFGLO, CFGHI or ODATA, and the draw counter, may change. -/
theorem writeReg_next {p : Port} {r : Reg} {v : Word} {s t : State} (h : writeReg p r v s = .next t) :
    ∃ k d, t = { s with ports := s.ports.set p k, draws := d } ∧
      k.locked = (s.block p).locked ∧ k.clocked = (s.block p).clocked ∧
      (r ≠ .cfglo → k.cfglo = (s.block p).cfglo) ∧ (r ≠ .cfghi → k.cfghi = (s.block p).cfghi) ∧
      (r ≠ .odata → r ≠ .setrst → r ≠ .rstonly → k.odata = (s.block p).odata) := by
  cases r <;> simp only [writeReg] at h <;> cases h
  · exact ⟨_, s.draws, rfl, by simp⟩
  · exact ⟨_, s.draws, rfl, by simp⟩
  · exact ⟨_, s.draws, rfl, by simp⟩
  · unfold writeSetrst
    split
    · exact ⟨_, s.draws + 1, rfl, by simp⟩
    · exact ⟨_, s.draws, rfl, by simp⟩
  · exact ⟨_, s.draws, rfl, by simp⟩

/-- What `MemRead` can do. -/
theorem memRead_next {addr : Word} {n : Nat} {s : State} {a : Word × State} (h : memRead addr n s = .next a) :
    (∃ p r, decodeAddress s.par.portBase addr = some (p, r) ∧ Live s p) ∧
      (a.2 = s ∨ a.2 = { s with draws := s.draws + 1 }) := by
  obtain ⟨x, hx, hr⟩ := andThen_eq_next h
  obtain ⟨-, -, hd, hl⟩ := access_next hx
  refine ⟨⟨x.1, x.2, hd, hl⟩, ?_⟩
  rcases readReg_next hr with ⟨h', -⟩ | ⟨h', -⟩
  · exact .inl h'
  · exact .inr h'

/-- What `MemWrite` can do. -/
theorem memWrite_next {addr : Word} {n : Nat} {v : Word} {s t : State} (h : memWrite addr n v s = .next t) :
    ∃ p r k d, decodeAddress s.par.portBase addr = some (p, r) ∧ Live s p ∧
      t = { s with ports := s.ports.set p k, draws := d } ∧
      k.locked = (s.block p).locked ∧ k.clocked = (s.block p).clocked ∧
      (r ≠ .cfglo → k.cfglo = (s.block p).cfglo) ∧ (r ≠ .cfghi → k.cfghi = (s.block p).cfghi) ∧
      (r ≠ .odata → r ≠ .setrst → r ≠ .rstonly → k.odata = (s.block p).odata) := by
  obtain ⟨⟨p, r⟩, hx, hr⟩ := andThen_eq_next h
  obtain ⟨-, -, hd, hl⟩ := access_next hx
  obtain ⟨k, d, ht, hk⟩ := writeReg_next hr
  exact ⟨p, r, k, d, hd, hl, ht, hk⟩

/-- The driver's read of a register of a port that meets the premises. -/
theorem busRead_ready {s : State} {p : Port} (h : Ready s p) (r : Reg) :
    busRead (regAddress (s.base p) r) s =
      andThen (readReg p r s) fun a => .next (a.1, a.2.issue ⟨.read, regAddress (s.base p) r, a.1⟩) := by
  simp [busRead, memRead, access_regAddress h]

/-- The driver's write to a register of a port that meets the premises. -/
theorem busWrite_ready {s : State} {p : Port} (h : Ready s p) (r : Reg) (v : Word) :
    busWrite (regAddress (s.base p) r) v s =
      andThen (writeReg p r v s) fun t => .next (t.issue ⟨.write, regAddress (s.base p) r, v⟩) := by
  simp [busWrite, memWrite, access_regAddress h]

/-- Everything a driver's read can do: one transaction at one of the 21 words, and at most one draw. -/
theorem busRead_next {addr : Word} {s : State} {a : Word × State} (h : busRead addr s = .next a) :
    RegisterWord s.par.portBase addr ∧
      ∃ d, a.2 = { s with draws := d, trace := s.trace ++ [⟨.read, addr, a.1⟩] } := by
  obtain ⟨x, hx, hr⟩ := andThen_eq_next h
  obtain ⟨⟨p, r, hd, -⟩, hs⟩ := memRead_next hx
  refine ⟨⟨p, r, decodeAddress_eq_some hd⟩, ?_⟩
  cases hr
  rcases hs with hs | hs
  · exact ⟨s.draws, by rw [hs]; rfl⟩
  · exact ⟨s.draws + 1, by rw [hs]; rfl⟩

/-- Everything a driver's write can do: one transaction at one of the 21 words, and one port's registers. -/
theorem busWrite_next {addr v : Word} {s t : State} (h : busWrite addr v s = .next t) :
    ∃ p r k d, addr = s.base p + regOffset r ∧
      t = { s with ports := s.ports.set p k, draws := d, trace := s.trace ++ [⟨.write, addr, v⟩] } ∧
      k.locked = (s.block p).locked ∧ k.clocked = (s.block p).clocked ∧
      (r ≠ .cfglo → k.cfglo = (s.block p).cfglo) ∧ (r ≠ .cfghi → k.cfghi = (s.block p).cfghi) ∧
      (r ≠ .odata → r ≠ .setrst → r ≠ .rstonly → k.odata = (s.block p).odata) := by
  obtain ⟨x, hx, hr⟩ := andThen_eq_next h
  obtain ⟨p, r, k, d, hd, -, ht, hk⟩ := memWrite_next hx
  cases hr
  exact ⟨p, r, k, d, decodeAddress_eq_some hd, by rw [ht]; rfl, hk⟩

end Sys2Proof.Machine
end

