-- ==== Sys2Proof/Laws/Exec.lean ====
section
/-! SUPPORT. Once for each meaning, everything its next states can be: the inversion lemmas that a proof cites instead
of unfolding a meaning. -/

namespace Sys2Proof.Machine

/-- The driver has read `v` at `addr`: one transaction, at one of the 21 words, and at most a draw. -/
def ReadDone (s : State) (addr v : Word) (t : State) : Prop :=
  RegisterWord s.par.portBase addr ∧ ∃ d, t = { s with draws := d, trace := s.trace ++ [⟨.read, addr, v⟩] }

/-- The driver has written `v` at `addr`: one transaction, at one of the 21 words, and the registers of its port. -/
def WriteDone (s : State) (addr v : Word) (t : State) : Prop :=
  ∃ p r k d, addr = s.base p + regOffset r ∧
    t = { s with ports := s.ports.set p k, draws := d, trace := s.trace ++ [⟨.write, addr, v⟩] } ∧
    k.locked = (s.block p).locked ∧ k.clocked = (s.block p).clocked ∧
    (r ≠ .cfglo → k.cfglo = (s.block p).cfglo) ∧ (r ≠ .cfghi → k.cfghi = (s.block p).cfghi) ∧
    (r ≠ .odata → r ≠ .setrst → r ≠ .rstonly → k.odata = (s.block p).odata)

/-- The command was turned away with a report (rule R135). -/
def Reported (r : Report) (s t : State) : Prop := s.par.checked = true ∧ t = s.complete (.reported r)

theorem slotRead_next {ref : Word} {n : Pin} {s t : State} (h : slotRead ref n s = .next t) :
    ∃ v s', ReadDone s (slotAddress ref n) v s' ∧ t = (s'.latch v).goto (s.u + 1) := by
  obtain ⟨a, ha, hk⟩ := andThen_eq_next h
  cases hk
  exact ⟨a.1, a.2, busRead_next ha, rfl⟩

theorem slotWrite_next {ref : Word} {n : Pin} {c : Nibble} {s t : State} (h : slotWrite ref n c s = .next t) :
    WriteDone s (slotAddress ref n) (packSlot s.drv.t (slotShift n) c) t :=
  busWrite_next h

theorem execAt_next {port : Byte} {s t : State} (h : execAt port s = .next t) :
    ∃ p, port = Port.code p ∧ s.u = 0 ∧ t = s.complete (.value (s.base p)) := by
  obtain ⟨hu, h⟩ := oneMicroStep_next h
  obtain ⟨p, hp, h⟩ := withPort_next h
  cases h
  exact ⟨p, hp, hu, rfl⟩

/-- Everything an RD.x command can do. -/
theorem readCommand_next {r : Reg} {port : Byte} {s t : State} (h : readCommand r port s = .next t) :
    ∃ p v s', port = Port.code p ∧ s.u = 0 ∧ ReadDone s (regAddress (s.base p) r) v s' ∧
      t = s'.complete (.value v) := by
  obtain ⟨hu, h⟩ := oneMicroStep_next h
  obtain ⟨p, hp, h⟩ := withPort_next h
  obtain ⟨a, ha, hk⟩ := andThen_eq_next h
  cases hk
  exact ⟨p, a.1, a.2, hp, hu, busRead_next ha, rfl⟩

/-- Everything a WR.x command can do. -/
theorem writeCommand_next {r : Reg} {port : Byte} {w : Word} {s t : State} (h : writeCommand r port w s = .next t) :
    ∃ p s', port = Port.code p ∧ s.u = 0 ∧ WriteDone s (regAddress (s.base p) r) w s' ∧ t = s'.complete .none := by
  obtain ⟨hu, h⟩ := oneMicroStep_next h
  obtain ⟨p, hp, h⟩ := withPort_next h
  obtain ⟨a, ha, hk⟩ := andThen_eq_next h
  cases hk
  exact ⟨p, a, hp, hu, busWrite_next ha, rfl⟩

theorem refusedCommand_not_next {reason : Refusal} {port : Byte} {s t : State} :
    refusedCommand reason port s ≠ .next t := by
  intro h
  obtain ⟨-, h⟩ := oneMicroStep_next h
  obtain ⟨p, -, h⟩ := withPort_next h
  cases h

/-- Everything CFGPIN can do. -/
theorem execCfgpin_next {port pin cfg : Byte} {s t : State} (h : execCfgpin port pin cfg s = .next t) :
    ∃ p, port = Port.code p ∧
      ((15 < pin.toNat ∧ Reported .outOfRangePinIndex s t) ∨ ∃ n : Pin, pin = BitVec.ofNat 8 n.val ∧
        ((s.u = 0 ∧ ∃ v s', ReadDone s (slotAddress (s.base p) n) v s' ∧ t = (s'.latch v).goto 1) ∨
         (s.u = 1 ∧ ∃ (c : Nibble) (s' : State), cfg = c.setWidth 8 ∧
            WriteDone s (slotAddress (s.base p) n) (packSlot s.drv.t (slotShift n) c) s' ∧
            t = s'.complete .none))) := by
  obtain ⟨p, hp, h⟩ := withPort_next h
  refine ⟨p, hp, ?_⟩
  rcases withPin_next h with ⟨n, hn, h⟩ | hr
  · obtain ⟨c, hc, h⟩ := withCfg_next h
    refine .inr ⟨n, hn, ?_⟩
    split at h
    · obtain ⟨v, s', hr, ht⟩ := slotRead_next h
      exact .inl ⟨‹_›, v, s', hr, by rw [ht, ‹s.u = 0›]⟩
    · obtain ⟨s', hw, ht⟩ := andThen_eq_next h
      cases ht
      exact .inr ⟨‹_›, c, s', hc, slotWrite_next hw, rfl⟩
    · cases h
  · exact .inl hr

/-- Everything CFGALL can do. -/
theorem execCfgall_next {port cfg : Byte} {s t : State} (h : execCfgall port cfg s = .next t) :
    ∃ p, port = Port.code p ∧ s.u < 32 ∧
      ((s.u % 2 = 0 ∧ ∃ v s', ReadDone s (slotAddress (s.base p) (passPin s.u)) v s' ∧
          t = (s'.latch v).goto (s.u + 1)) ∨
       (s.u % 2 = 1 ∧ ∃ (c : Nibble) (s' : State), cfg = c.setWidth 8 ∧
          WriteDone s (slotAddress (s.base p) (passPin s.u))
            (packSlot s.drv.t (slotShift (passPin s.u)) c) s' ∧
          t = if s.u = 31 then s'.complete .none else s'.goto (s.u + 1))) := by
  obtain ⟨p, hp, h⟩ := withPort_next h
  obtain ⟨c, hc, h⟩ := withCfg_next h
  split at h
  · cases h
  · refine ⟨p, hp, by omega, ?_⟩
    split at h
    · obtain ⟨v, s', hr, ht⟩ := slotRead_next h
      exact .inl ⟨‹_›, v, s', hr, ht⟩
    · obtain ⟨s', hw, ht⟩ := andThen_eq_next h
      cases ht
      exact .inr ⟨by omega, c, s', hc, slotWrite_next hw, rfl⟩

/-- Everything INIT can do. -/
theorem execInit_next {port pin : Byte} {s t : State} (h : execInit port pin s = .next t) :
    ∃ p, port = Port.code p ∧
      ((15 < pin.toNat ∧ Reported .outOfRangePinIndex s t) ∨ ∃ n : Pin, pin = BitVec.ofNat 8 n.val ∧
        ((s.u = 0 ∧ ∃ v s', ReadDone (s.select (s.base p)) (slotAddress (s.base p) n) v s' ∧
            t = (s'.latch v).goto 1) ∨
         (s.u = 1 ∧ ∃ s', WriteDone s (slotAddress s.drv.ref n) (packSlot s.drv.t (slotShift n) defaultCfg) s' ∧
            t = (s'.storeMasks n).complete .none))) := by
  obtain ⟨p, hp, h⟩ := withPort_next h
  refine ⟨p, hp, ?_⟩
  rcases withPin_next h with ⟨n, hn, h⟩ | hr
  · refine .inr ⟨n, hn, ?_⟩
    split at h
    · obtain ⟨v, s', hr, ht⟩ := slotRead_next h
      exact .inl ⟨‹_›, v, s', hr, by rw [ht, State.select_u, ‹s.u = 0›]⟩
    · obtain ⟨s', hw, ht⟩ := andThen_eq_next h
      cases ht
      exact .inr ⟨‹_›, s', slotWrite_next hw, rfl⟩
    · cases h
  · exact .inl hr

/-- Everything SETON and SETOFF can do. -/
theorem levelCommand_next {word : Word} {s t : State} (h : levelCommand word s = .next t) :
    s.u = 0 ∧ ((s.drv.inited = false ∧ Reported .driverNotInitialized s t) ∨ (s.drv.inited = true ∧ ∃ s',
      WriteDone s (regAddress s.drv.ref .setrst) word s' ∧ t = s'.complete .none)) := by
  obtain ⟨hu, h⟩ := oneMicroStep_next h
  refine ⟨hu, ?_⟩
  rcases whenInited_next h with ⟨hi, h⟩ | hr
  · obtain ⟨s', hw, ht⟩ := andThen_eq_next h
    cases ht
    exact .inr ⟨hi, s', busWrite_next hw, rfl⟩
  · exact .inl hr

/-- Everything RUNFAST can do. -/
theorem execRunfast_next {s t : State} (h : execRunfast s = .next t) :
    (s.u = 0 ∧ ((s.drv.inited = false ∧ Reported .driverNotInitialized s t) ∨ (s.drv.inited = true ∧ ∃ s',
        WriteDone s (regAddress s.drv.ref .rstonly) (fastResetWord s.par s.drv) s' ∧ t = s'.goto 1))) ∨
      (s.u = 1 ∧ ∃ s', WriteDone s (regAddress s.drv.ref .setrst) s.drv.offMask s' ∧ t = s'.goto 0) := by
  unfold execRunfast at h
  split at h
  · refine .inl ⟨‹_›, ?_⟩
    rcases whenInited_next h with ⟨hi, h⟩ | hr
    · obtain ⟨s', hw, ht⟩ := andThen_eq_next h
      cases ht
      exact .inr ⟨hi, s', busWrite_next hw, rfl⟩
    · exact .inl hr
  · obtain ⟨s', hw, ht⟩ := andThen_eq_next h
    cases ht
    exact .inr ⟨‹_›, s', busWrite_next hw, rfl⟩
  · cases h

theorem diagWrite_next {p : Port} {r : Reg} {word : Word} {n : Nat} {s t : State}
    (h : diagWrite p r word n s = .next t) :
    ∃ s', WriteDone s (regAddress (s.base p) r) word s' ∧ t = s'.goto n := by
  obtain ⟨s', hw, ht⟩ := andThen_eq_next h
  cases ht
  exact ⟨s', busWrite_next hw, rfl⟩

/-- Everything RUNDIAG can do. -/
theorem execRundiag_next {s t : State} (h : execRundiag s = .next t) :
    s.u < 6 ∧ ∃ s', WriteDone s
        (regAddress (s.base (if s.u % 3 = 0 then s.par.diagOrder.first else if s.u % 3 = 1 then s.par.diagOrder.second
          else s.par.diagOrder.third)) (if s.u < 3 then .rstonly else .setrst))
        (if s.u < 3 then s.par.diagResetWord else s.par.diagSetWord) s' ∧
      t = s'.goto (if s.u = 5 then 0 else s.u + 1) := by
  unfold execRundiag at h
  split at h
  all_goals first
    | cases h
    | obtain ⟨s', hw, ht⟩ := diagWrite_next h
      exact ⟨by omega, s', by simp [*], by simp [*]⟩

end Sys2Proof.Machine
end

