-- ==== Sys2Proof/Laws/PerInstr.lean ====
section
/-! SUPPORT. The encoded word, instruction by instruction: every operand of an instruction stands in its own field of
the control word that `encode` writes, and its data operand is the command's. -/

namespace Sys2Proof

/-- Bit by bit, the control word is its four fields, `op` highest. -/
theorem controlWord_getLsbD (op port sel cfg : Byte) (i : Nat) :
    (controlWord op port sel cfg).getLsbD i =
      if i < 8 then cfg.getLsbD i else if i < 16 then sel.getLsbD (i - 8)
      else if i < 24 then port.getLsbD (i - 16) else op.getLsbD (i - 24) := by
  show BitVec.getLsbD (w := 8 + 8 + 8 + 8) (op ++ port ++ sel ++ cfg) i = _
  rw [BitVec.getLsbD_append, BitVec.getLsbD_append, BitVec.getLsbD_append]
  by_cases h1 : i < 8
  · simp [h1]
  · by_cases h2 : i < 16
    · simp [h1, h2, show i - 8 < 8 by omega]
    · by_cases h3 : i < 24
      · simp only [h1, h2, h3, show ¬ i - 8 < 8 by omega, show i - 8 - 8 = i - 16 by omega, show i - 16 < 8 by omega,
          if_true, if_false]
      · simp [h1, h2, h3, show ¬ i - 8 < 8 by omega, show ¬ i - 8 - 8 < 8 by omega,
          show i - 8 - 8 - 8 = i - 24 by omega]

theorem opField_controlWord (op port sel cfg : Byte) : opField (controlWord op port sel cfg) = op := by
  apply BitVec.eq_of_getLsbD_eq
  intro i hi
  rw [opField, BitVec.getLsbD_extractLsb', controlWord_getLsbD, if_neg (by omega), if_neg (by omega), if_neg (by omega)]
  simp [hi]

theorem portField_controlWord (op port sel cfg : Byte) : portField (controlWord op port sel cfg) = port := by
  apply BitVec.eq_of_getLsbD_eq
  intro i hi
  rw [portField, BitVec.getLsbD_extractLsb', controlWord_getLsbD, if_neg (by omega), if_neg (by omega), if_pos (by omega)]
  simp [hi]

theorem selField_controlWord (op port sel cfg : Byte) : selField (controlWord op port sel cfg) = sel := by
  apply BitVec.eq_of_getLsbD_eq
  intro i hi
  rw [selField, BitVec.getLsbD_extractLsb', controlWord_getLsbD, if_neg (by omega), if_pos (by omega)]
  simp [hi]

theorem cfgField_controlWord (op port sel cfg : Byte) : cfgField (controlWord op port sel cfg) = cfg := by
  apply BitVec.eq_of_getLsbD_eq
  intro i hi
  rw [cfgField, BitVec.getLsbD_extractLsb', controlWord_getLsbD]
  simp [hi]

/-- Each operand is in its field of the control word, and the data operand is the command's (rule R70). -/
def Laws.EncodedFields.Statement (i : Instr) : Prop :=
  (∀ port, i.port? = some port → portField (encode i).cw = port) ∧
  (∀ pin, i.pin? = some pin → selField (encode i).cw = pin) ∧
  (∀ cfg, i.cfg? = some cfg → cfgField (encode i).cw = cfg) ∧
  ∀ w, i.wdata? = some w → (encode i).wdata = w

theorem Laws.EncodedFields.atPort (port : Byte) : Laws.EncodedFields.Statement (.atPort port) := by
  refine ⟨fun x h => ?_, fun x h => ?_, fun x h => ?_, fun x h => ?_⟩ <;> cases h
  · exact portField_controlWord _ _ _ _

theorem Laws.EncodedFields.rdCfglo (port : Byte) : Laws.EncodedFields.Statement (.rdCfglo port) := by
  refine ⟨fun x h => ?_, fun x h => ?_, fun x h => ?_, fun x h => ?_⟩ <;> cases h
  · exact portField_controlWord _ _ _ _

theorem Laws.EncodedFields.rdCfghi (port : Byte) : Laws.EncodedFields.Statement (.rdCfghi port) := by
  refine ⟨fun x h => ?_, fun x h => ?_, fun x h => ?_, fun x h => ?_⟩ <;> cases h
  · exact portField_controlWord _ _ _ _

theorem Laws.EncodedFields.rdIdata (port : Byte) : Laws.EncodedFields.Statement (.rdIdata port) := by
  refine ⟨fun x h => ?_, fun x h => ?_, fun x h => ?_, fun x h => ?_⟩ <;> cases h
  · exact portField_controlWord _ _ _ _

theorem Laws.EncodedFields.rdOdata (port : Byte) : Laws.EncodedFields.Statement (.rdOdata port) := by
  refine ⟨fun x h => ?_, fun x h => ?_, fun x h => ?_, fun x h => ?_⟩ <;> cases h
  · exact portField_controlWord _ _ _ _

theorem Laws.EncodedFields.rdSetrst (port : Byte) : Laws.EncodedFields.Statement (.rdSetrst port) := by
  refine ⟨fun x h => ?_, fun x h => ?_, fun x h => ?_, fun x h => ?_⟩ <;> cases h
  · exact portField_controlWord _ _ _ _

theorem Laws.EncodedFields.rdRstonly (port : Byte) : Laws.EncodedFields.Statement (.rdRstonly port) := by
  refine ⟨fun x h => ?_, fun x h => ?_, fun x h => ?_, fun x h => ?_⟩ <;> cases h
  · exact portField_controlWord _ _ _ _

theorem Laws.EncodedFields.rdLock (port : Byte) : Laws.EncodedFields.Statement (.rdLock port) := by
  refine ⟨fun x h => ?_, fun x h => ?_, fun x h => ?_, fun x h => ?_⟩ <;> cases h
  · exact portField_controlWord _ _ _ _

theorem Laws.EncodedFields.wrCfglo (port : Byte) (wdata : Word) : Laws.EncodedFields.Statement (.wrCfglo port wdata) := by
  refine ⟨fun x h => ?_, fun x h => ?_, fun x h => ?_, fun x h => ?_⟩ <;> cases h
  · exact portField_controlWord _ _ _ _
  · rfl

theorem Laws.EncodedFields.wrCfghi (port : Byte) (wdata : Word) : Laws.EncodedFields.Statement (.wrCfghi port wdata) := by
  refine ⟨fun x h => ?_, fun x h => ?_, fun x h => ?_, fun x h => ?_⟩ <;> cases h
  · exact portField_controlWord _ _ _ _
  · rfl

theorem Laws.EncodedFields.wrIdata (port : Byte) (wdata : Word) : Laws.EncodedFields.Statement (.wrIdata port wdata) := by
  refine ⟨fun x h => ?_, fun x h => ?_, fun x h => ?_, fun x h => ?_⟩ <;> cases h
  · exact portField_controlWord _ _ _ _
  · rfl

theorem Laws.EncodedFields.wrOdata (port : Byte) (wdata : Word) : Laws.EncodedFields.Statement (.wrOdata port wdata) := by
  refine ⟨fun x h => ?_, fun x h => ?_, fun x h => ?_, fun x h => ?_⟩ <;> cases h
  · exact portField_controlWord _ _ _ _
  · rfl

theorem Laws.EncodedFields.wrSetrst (port : Byte) (wdata : Word) : Laws.EncodedFields.Statement (.wrSetrst port wdata) := by
  refine ⟨fun x h => ?_, fun x h => ?_, fun x h => ?_, fun x h => ?_⟩ <;> cases h
  · exact portField_controlWord _ _ _ _
  · rfl

theorem Laws.EncodedFields.wrRstonly (port : Byte) (wdata : Word) : Laws.EncodedFields.Statement (.wrRstonly port wdata) := by
  refine ⟨fun x h => ?_, fun x h => ?_, fun x h => ?_, fun x h => ?_⟩ <;> cases h
  · exact portField_controlWord _ _ _ _
  · rfl

theorem Laws.EncodedFields.wrLock (port : Byte) (wdata : Word) : Laws.EncodedFields.Statement (.wrLock port wdata) := by
  refine ⟨fun x h => ?_, fun x h => ?_, fun x h => ?_, fun x h => ?_⟩ <;> cases h
  · exact portField_controlWord _ _ _ _
  · rfl

theorem Laws.EncodedFields.cfgpin (port pin cfg : Byte) : Laws.EncodedFields.Statement (.cfgpin port pin cfg) := by
  refine ⟨fun x h => ?_, fun x h => ?_, fun x h => ?_, fun x h => ?_⟩ <;> cases h
  · exact portField_controlWord _ _ _ _
  · exact selField_controlWord _ _ _ _
  · exact cfgField_controlWord _ _ _ _

theorem Laws.EncodedFields.cfgall (port cfg : Byte) : Laws.EncodedFields.Statement (.cfgall port cfg) := by
  refine ⟨fun x h => ?_, fun x h => ?_, fun x h => ?_, fun x h => ?_⟩ <;> cases h
  · exact portField_controlWord _ _ _ _
  · exact cfgField_controlWord _ _ _ _

theorem Laws.EncodedFields.initPin (port pin : Byte) : Laws.EncodedFields.Statement (.initPin port pin) := by
  refine ⟨fun x h => ?_, fun x h => ?_, fun x h => ?_, fun x h => ?_⟩ <;> cases h
  · exact portField_controlWord _ _ _ _
  · exact selField_controlWord _ _ _ _

theorem Laws.EncodedFields.seton : Laws.EncodedFields.Statement .seton := by
  refine ⟨fun x h => ?_, fun x h => ?_, fun x h => ?_, fun x h => ?_⟩ <;> cases h

theorem Laws.EncodedFields.setoff : Laws.EncodedFields.Statement .setoff := by
  refine ⟨fun x h => ?_, fun x h => ?_, fun x h => ?_, fun x h => ?_⟩ <;> cases h

theorem Laws.EncodedFields.runfast : Laws.EncodedFields.Statement .runfast := by
  refine ⟨fun x h => ?_, fun x h => ?_, fun x h => ?_, fun x h => ?_⟩ <;> cases h

theorem Laws.EncodedFields.rundiag : Laws.EncodedFields.Statement .rundiag := by
  refine ⟨fun x h => ?_, fun x h => ?_, fun x h => ?_, fun x h => ?_⟩ <;> cases h

end Sys2Proof
end

