-- ==== Sys2Proof/Tests/Slice0.lean ====
section
/-! SUPPORT. Tests. Every expected value is taken from the vectors of the spec's test file (S1 to S10, V1 to V9, P1 to
P6) or from the worked examples of the command rules; the number stands in each comment. After them, for every
obligation with hypotheses, a concrete state and operands that meet them. -/

namespace Sys2Proof.Tests

open Sys2Proof Sys2Proof.Machine

/-! ### Well-formedness: each check refuses an ill-formed command -/

/-- Rule R71: port 3 names no port. -/
theorem test_illformed_port : (Instr.atPort 3).wellFormed = false ∧ (Instr.wrLock 255 0).wellFormed = false := by decide

/-- Rule R71: pin 16 is out of range. -/
theorem test_illformed_pin :
    (Instr.cfgpin 0 16 3).wellFormed = false ∧ (Instr.initPin 2 255).wellFormed = false := by decide

/-- Rule R71: a PinConfig of 0x10 does not fit 4 bits. -/
theorem test_illformed_cfg : (Instr.cfgpin 0 5 0x10).wellFormed = false ∧ (Instr.cfgall 0 0x33).wellFormed = false := by
  decide

/-- The largest legal operands pass. -/
theorem test_wellformed :
    (Instr.cfgpin 2 15 0xF).wellFormed = true ∧ (Instr.cfgall 2 0xF).wellFormed = true ∧
      Instr.seton.wellFormed = true := by decide

/-! ### Decoding: one word of every row, written out from rules R70 and R72 -/

theorem test_decode_AT : decodeTableWord 32 0x01020000 = some (.atPort 2) := by decide
theorem test_decode_RD_CFGLO : decodeTableWord 32 0x02000000 = some (.rdCfglo 0) := by decide
theorem test_decode_RD_CFGHI : decodeTableWord 32 0x02020100 = some (.rdCfghi 2) := by decide
theorem test_decode_RD_IDATA : decodeTableWord 32 0x02010200 = some (.rdIdata 1) := by decide
theorem test_decode_RD_ODATA : decodeTableWord 32 0x02020300 = some (.rdOdata 2) := by decide
theorem test_decode_RD_SETRST : decodeTableWord 32 0x02000400 = some (.rdSetrst 0) := by decide
theorem test_decode_RD_RSTONLY : decodeTableWord 32 0x02000500 = some (.rdRstonly 0) := by decide
theorem test_decode_RD_LOCK : decodeTableWord 32 0x02000600 = some (.rdLock 0) := by decide
theorem test_decode_WR_CFGLO : decode ⟨0x03000000, 0x44444444⟩ = .ok (.wrCfglo 0 0x44444444) := by decide
theorem test_decode_WR_CFGHI : decode ⟨0x03020100, 0x44344444⟩ = .ok (.wrCfghi 2 0x44344444) := by decide
theorem test_decode_WR_IDATA : decode ⟨0x03000200, 1⟩ = .ok (.wrIdata 0 1) := by decide
theorem test_decode_WR_ODATA : decode ⟨0x03010300, 0xFFFF00FF⟩ = .ok (.wrOdata 1 0xFFFF00FF) := by decide
theorem test_decode_WR_SETRST : decode ⟨0x03020400, 0x20000000⟩ = .ok (.wrSetrst 2 0x20000000) := by decide
theorem test_decode_WR_RSTONLY : decode ⟨0x03000500, 0x2000⟩ = .ok (.wrRstonly 0 0x2000) := by decide
theorem test_decode_WR_LOCK : decode ⟨0x03000600, 0x00010020⟩ = .ok (.wrLock 0 0x00010020) := by decide
theorem test_decode_CFGPIN : decodeTableWord 32 0x04020D03 = some (.cfgpin 2 13 3) := by decide
theorem test_decode_CFGALL : decodeTableWord 32 0x05020007 = some (.cfgall 2 7) := by decide
theorem test_decode_INIT : decodeTableWord 32 0x06010F00 = some (.initPin 1 15) := by decide
theorem test_decode_SETON : decodeTableWord 32 0x07000000 = some .seton := by decide
theorem test_decode_SETOFF : decodeTableWord 32 0x08000000 = some .setoff := by decide
theorem test_decode_RUNFAST : decodeTableWord 32 0x09000000 = some .runfast := by decide
theorem test_decode_RUNDIAG : decodeTableWord 32 0x0A000000 = some .rundiag := by decide

/-- Vector V7: a command word whose operands are out of range decodes. -/
theorem test_decode_illegal_operands : decodeTableWord 32 0x0402FFFF = some (.cfgpin 2 255 0xFF) := by decide

/-- The data operand is bits 63:32 of a table word. -/
theorem test_decode_data_operand : decodeTableWord 64 0x2000000003020400 = some (.wrSetrst 2 0x20000000) := by decide

/-- Vector V7: the thirteen reserved words. -/
theorem test_decode_reserved :
    ([0x00000000, 0x0B000000, 0xFFFFFFFF, 0x02000700, 0x0300FF00, 0x02000001, 0x01000100, 0x05000103, 0x06020D03,
      0x07000001, 0x08010000, 0x09000100, 0x0A020000] : List Word).all
      (fun cw => decide (decode ⟨cw, 0⟩ = .error (.illegalCommand cw))) = true := by decide

/-- Rule R75: the textual form. -/
theorem test_command_text :
    commandText (.cfgpin 2 13 3) = "CFGPIN C, 13, 0x3" ∧ commandText (.wrSetrst 2 0x2000) = "WR.SETRST C, 0x00002000" ∧
      commandText (.atPort 3) = "AT 3" ∧ commandText .seton = "SETON" := by decide

/-! ### One-step tests -/

/-- A block of a clocked, unlocked port. -/
def blockOf (lo hi : Word) (od : Half) : PortBlock := ⟨lo, hi, od, false, true⟩

/-- The start state of the tests: the vectors' bases, every slot 0x4, every output 0, not initialised. -/
def start : State :=
  { resetWith (hardwareParams suggestedBases) with
    ports := ⟨blockOf 0x44444444 0x44444444 0, blockOf 0x44444444 0x44444444 0, blockOf 0x44444444 0x44444444 0⟩
    drv := ⟨0, 0, 0, false, 0⟩
    otherT := 0 }

/-- The start state with one port's block given. -/
def withBlock (p : Port) (lo hi : Word) (od : Half) : State := start.setBlock p (blockOf lo hi od)

/-- The state after INIT C, 13 (vector V4 row 1), with the outputs of port C given. -/
def onC13 (od : Half) : State :=
  { withBlock .C 0x44444444 0x44344444 od with drv := ⟨0x40011000, 0x00002000, 0x20000000, true, 0x44444444⟩ }

/-- The state after INIT A, 5 (vector V4 row 4), with the outputs of port A given. -/
def onA5 (od : Half) : State :=
  { withBlock .A 0x44344444 0x44444444 od with drv := ⟨0x40010800, 0x00000020, 0x00200000, true, 0x44444444⟩ }

/-- A field of the next state, where there is one. -/
def seen {α : Type} (o : Attempt State) (f : State → α) : Option α :=
  match o with
  | .next t => some (f t)
  | .fault _ => none
  | .refused _ => none

/-- The last transaction of the driver. -/
def last (t : State) : Option Transaction := t.trace.getLast?

/-- V1 row 2. -/
theorem test_AT : seen (exec (.atPort 1) start) (fun t => (t.result, t.trace, t.cp)) =
    some (.value 0x40010C00, [], 1) := by decide
/-- V6 row 14. -/
theorem test_AT_illegal : exec (.atPort 3) start = .fault (.invalidBase 3) := by rfl
/-- V1 row 4. -/
theorem test_RD_CFGLO : seen (exec (.rdCfglo 0) (withBlock .A 0x12345678 0 0)) (fun t => (t.result, last t)) =
    some (.value 0x12345678, some ⟨.read, 0x40010800, 0x12345678⟩) := by decide
/-- V6 row 15. -/
theorem test_RD_CFGLO_illegal : exec (.rdCfglo 255) start = .fault (.invalidBase 255) := by rfl
/-- V1 row 5. -/
theorem test_RD_CFGHI : seen (exec (.rdCfghi 1) (withBlock .B 0 0x9ABCDEF0 0)) (fun t => (t.result, last t)) =
    some (.value 0x9ABCDEF0, some ⟨.read, 0x40010C04, 0x9ABCDEF0⟩) := by decide
/-- V1 row 6: some value, read at 0x40011008, nothing of the registers changed. -/
theorem test_RD_IDATA : seen (exec (.rdIdata 2) start) (fun t => (t.trace.map (·.addr), t.ports, t.cp)) =
    some ([0x40011008], start.ports, 1) := by decide
/-- V1 row 7. -/
theorem test_RD_ODATA : seen (exec (.rdOdata 2) (withBlock .C 0 0 0xA5A5)) (fun t => (t.result, last t)) =
    some (.value 0x0000A5A5, some ⟨.read, 0x4001100C, 0x0000A5A5⟩) := by decide
/-- V1 row 8. -/
theorem test_RD_SETRST : seen (exec (.rdSetrst 0) (withBlock .A 0 0 0x1234)) (fun t =>
    (t.trace.map (·.addr), (t.block .A).odata)) = some ([0x40010810], 0x1234) := by decide
/-- V1 row 9. -/
theorem test_RD_RSTONLY : seen (exec (.rdRstonly 0) (withBlock .A 0 0 0x1234)) (fun t =>
    (t.trace.map (·.addr), (t.block .A).odata)) = some ([0x40010814], 0x1234) := by decide
/-- V1 row 10. -/
theorem test_RD_LOCK : exec (.rdLock 0) start = .refused .lockNotModelled := by rfl
/-- V6 row 17: the port check precedes the refusal. -/
theorem test_RD_LOCK_illegal : exec (.rdLock 3) start = .fault (.invalidBase 3) := by rfl
/-- V1 row 26: the other port keeps its register. -/
theorem test_WR_CFGLO : seen (exec (.wrCfglo 0 0x33333333) (withBlock .B 0x22222222 0 0)) (fun t =>
    ((t.block .A).cfglo, (t.block .B).cfglo, last t)) =
    some (0x33333333, 0x22222222, some ⟨.write, 0x40010800, 0x33333333⟩) := by decide
/-- V1 row 12. -/
theorem test_WR_CFGHI : seen (exec (.wrCfghi 2 0x44344444) (withBlock .C 0 0 0)) (fun t =>
    ((t.block .C).cfghi, (t.block .C).cfglo, last t)) =
    some (0x44344444, 0, some ⟨.write, 0x40011004, 0x44344444⟩) := by decide
/-- V1 row 13. -/
theorem test_WR_IDATA : exec (.wrIdata 0 1) start = .refused .writeToInputData := by rfl
/-- V1 row 14. -/
theorem test_WR_ODATA : seen (exec (.wrOdata 1 0xFFFF00FF) start) (fun t => ((t.block .B).odata, last t)) =
    some (0x00FF, some ⟨.write, 0x40010C0C, 0xFFFF00FF⟩) := by decide
/-- V1 row 17. -/
theorem test_WR_SETRST : seen (exec (.wrSetrst 0 0x00F0000F) (withBlock .A 0 0 0xA5A5)) (fun t => (t.block .A).odata) =
    some 0xA50F := by decide
/-- V1 row 19: both bits of pin 13, under `set_wins` and under `reset_wins`. -/
theorem test_WR_SETRST_conflict :
    afterSetrst .setWins 0 0x1234 0x20002000 = 0x3234 ∧ afterSetrst .resetWins 0 0x1234 0x20002000 = 0x1234 := by decide
/-- V1 row 23. -/
theorem test_WR_RSTONLY : seen (exec (.wrRstonly 0 0xFF) (withBlock .A 0 0 0xA5A5)) (fun t =>
    ((t.block .A).odata, last t)) = some (0xA500, some ⟨.write, 0x40010814, 0xFF⟩) := by decide
/-- V1 row 22: the upper half is ignored. -/
theorem test_WR_RSTONLY_upper : seen (exec (.wrRstonly 0 0xFFFF0000) (withBlock .A 0 0 0xFFFF)) (fun t =>
    (t.block .A).odata) = some 0xFFFF := by decide
/-- V1 row 25. -/
theorem test_WR_LOCK : exec (.wrLock 0 0x00010020) start = .refused .lockNotModelled := by rfl
/-- V2 row 10: pin 7 is the top slot of CFGLO. -/
theorem test_CFGPIN : seen (micro (.cfgpin 0 7 8) 2 (withBlock .A 0xDEADBEEF 0xCAFEF00D 0)) (fun t =>
    ((t.block .A).cfglo, (t.block .A).cfghi, t.cp)) = some (0x8EADBEEF, 0xCAFEF00D, 1) := by decide
/-- V2 row 8: pin 10 is slot 2 of CFGHI. -/
theorem test_CFGPIN_high : seen (micro (.cfgpin 0 10 4) 2 (withBlock .A 0x12345678 0x9ABCDEF0 0)) (fun t =>
    ((t.block .A).cfglo, (t.block .A).cfghi, last t)) =
    some (0x12345678, 0x9ABCD4F0, some ⟨.write, 0x40010804, 0x9ABCD4F0⟩) := by decide
/-- V3, mid-command: after 10 of the 32 micro-steps. -/
theorem test_CFGALL_middle : seen (micro (.cfgall 0 3) 10 start) (fun t =>
    ((t.block .A).cfglo, (t.block .A).cfghi, t.u, t.cp)) = some (0x44433333, 0x44444444, 10, 0) := by decide
/-- V3 row 2. -/
theorem test_CFGALL : seen (micro (.cfgall 1 6) 32 (withBlock .B 0xDEADBEEF 0x01234567 0)) (fun t =>
    ((t.block .B).cfglo, (t.block .B).cfghi, t.cp)) = some (0x66666666, 0x66666666, 1) := by decide
/-- V4 row 1. -/
theorem test_INIT : seen (micro (.initPin 2 13) 2 start) (fun t => ((t.block .C).cfghi, t.drv, (t.block .C).odata)) =
    some (0x44344444, ⟨0x40011000, 0x00002000, 0x20000000, true, 0x44444444⟩, 0) := by decide
/-- V6 row 9. -/
theorem test_INIT_illegal : exec (.initPin 0 16) start = .fault (.pinOutOfRange 16) := by rfl
/-- V4 row 5, with the outputs 0xA5A5 of the note below the table. -/
theorem test_SETON : seen (exec .seton (onC13 0xA5A5)) (fun t => ((t.block .C).odata, last t)) =
    some (0x85A5, some ⟨.write, 0x40011010, 0x20000000⟩) := by decide
/-- V6 row 11. -/
theorem test_SETON_before_INIT : exec .seton start = .fault .notInitialized := by rfl
/-- V4 row 8. -/
theorem test_SETOFF : seen (exec .setoff (onC13 0)) (fun t => ((t.block .C).odata, last t)) =
    some (0x2000, some ⟨.write, 0x40011010, 0x00002000⟩) := by decide
/-- V5, the first two transactions. -/
theorem test_RUNFAST : seen (micro .runfast 1 (onA5 0xFFFF)) (fun t => ((t.block .A).odata, last t, t.u)) =
    some (0xFFDF, some ⟨.write, 0x40010814, 0x20⟩, 1) := by decide
theorem test_RUNFAST_loop : seen (micro .runfast 2 (onA5 0xFFFF)) (fun t => ((t.block .A).odata, last t, t.u, t.cp)) =
    some (0xFFFF, some ⟨.write, 0x40010810, 0x20⟩, 0, 0) := by decide
/-- P4, transaction 4, and rule R121: no INIT is needed. -/
theorem test_RUNDIAG : seen (micro .rundiag 5 (withBlock .C 0 0 0xFFFF)) (fun t =>
    ((t.block .A).odata, (t.block .B).odata, (t.block .C).odata, last t)) =
    some (0xFFFF, 0xFFFF, 0x0000, some ⟨.write, 0x40010C10, 0xFFFF⟩) := by decide
/-- P5a under `CHECKED = true`: reported, no effect, the next command follows. -/
theorem test_checked : seen (exec .seton { start with par := { start.par with checked := true } }) (fun t =>
    (t.result, t.cp, t.trace)) = some (.reported .driverNotInitialized, 1, []) := by decide
/-- P6, row 5: the interferer's slot 2 is lost. -/
theorem test_lost_update :
    seen (Host.Core.run core 4 { start with
      stream := [⟨0x04000503, 0⟩]
      turns := [.driver, .other (.read 0x40010800), .other (.modify 0x40010800 0xFFFFF0FF 0x100), .driver] })
      (fun t => (t.block .A).cfglo) = some 0x44344444 := by decide
/-- P6, row 3: the driver's slot 5 is lost. -/
theorem test_lost_update_of_the_driver :
    seen (Host.Core.run core 4 { start with
      stream := [⟨0x04000503, 0⟩]
      turns := [.driver, .other (.read 0x40010800), .driver, .other (.modify 0x40010800 0xFFFFF0FF 0x100)] })
      (fun t => (t.block .A).cfglo) = some 0x44444144 := by decide
/-- The first step after reset runs the placed instruction: AT C returns the base of port C. -/
theorem test_first_step : seen (step (State.reset.withFetchWord 32 0x01020000)) (fun t => (t.result, t.cp)) =
    some (.value 0x40011000, 1) := by decide

/-! ### Witnesses: every hypothesis of the obligations can be met -/

theorem start_ready (p : Port) : Ready start p := by
  refine ⟨by decide, ?_⟩
  cases p <;> exact ⟨rfl, rfl⟩

/-- The start state with a one-command stream. -/
def prog (c : Command) : State := { start with stream := [c] }

theorem microSteps_pos (i : Instr) : 0 < i.microSteps := by cases i <;> exact Nat.succ_pos _

theorem prog_inv (c : Command) : Inv (prog c) where
  bases := (start_ready .A).1
  live p := by cases p <;> exact ⟨rfl, rfl⟩
  driver h := by cases h
  microStep i _ := microSteps_pos i
  midInit _ _ _ h := by cases h
  midFast _ h := by cases h
  issued x h := by cases h

/-- The state after INIT C, 13, with a one-command stream. -/
def progOnC13 (c : Command) : State := { onC13 0 with stream := [c] }

theorem progOnC13_inv (c : Command) : Inv (progOnC13 c) where
  bases := (start_ready .A).1
  live p := by cases p <;> exact ⟨rfl, rfl⟩
  driver _ := ⟨⟨.C, rfl⟩, 13, rfl, rfl⟩
  microStep i _ := microSteps_pos i
  midInit _ _ _ h := by cases h
  midFast _ h := by cases h
  issued x h := by cases h

theorem onC13_ready (p : Port) : Ready (onC13 0) p := by
  refine ⟨by decide, ?_⟩
  cases p <;> exact ⟨rfl, rfl⟩

theorem onC13_inited : InitedFor (onC13 0) .C 13 := ⟨rfl, rfl, rfl, rfl⟩

theorem witness_EncodeOfDecode :
    decode ⟨0x03020400, 5⟩ = .ok (.wrSetrst 2 5) ∧ (Instr.wrSetrst 2 5).wdata? = some 5 := by decide
theorem witness_OpcodeRowsDisjointAndComplete :
    (⟨"CFGPIN", 0x04000000, 0xFF000000⟩ : OpcodeRow) ∈ opcodeTable ∧
      (⟨"CFGPIN", 0x04000000, 0xFF000000⟩ : OpcodeRow).selects 0x04020D03 = true := by decide
theorem witness_SlotSelection : (7 : Pin).val < 8 ∧ 8 ≤ (8 : Pin).val := by decide
theorem witness_PackSlotReplacesOneSlot : (0 : Nat) < 8 ∧ (7 : Nat) < 8 := by decide
theorem witness_SetrstWordBitByBit :
    ((0x00000001 : Word).getLsbD 0 = true ∧ (0x00000001 : Word).getLsbD 16 = false) ∧
    ((0x80000000 : Word).getLsbD 15 = false ∧ (0x80000000 : Word).getLsbD 31 = true) ∧
    ((0 : Word).getLsbD 0 = false ∧ (0 : Word).getLsbD 16 = false) ∧
    ((0x80008000 : Word).getLsbD 15 = true ∧ (0x80008000 : Word).getLsbD 31 = true) := by decide
theorem witness_StepRunsDecodedInstruction :
    (prog ⟨0x01020000, 0⟩).stream[(prog ⟨0x01020000, 0⟩).cp]? = some ⟨0x01020000, 0⟩ ∧
    decode ⟨0x01020000, 0⟩ = .ok (.atPort 2) ∧ (prog ⟨0x01020000, 0⟩).turns = [] ∧
    { prog ⟨0x01020000, 0⟩ with turns := [.driver] }.turns = .driver :: [] := by decide
theorem witness_StepStopsAtStreamEndAndReservedWords :
    (start.turns = [] ∧ start.stream[start.cp]? = none) ∧
    ((prog ⟨0, 0⟩).turns = [] ∧ (prog ⟨0, 0⟩).stream[(prog ⟨0, 0⟩).cp]? = some ⟨0, 0⟩ ∧
      decode ⟨0, 0⟩ = .error (.illegalCommand 0)) := by decide
/-- One micro-step of each kind: a next one, the last of a command, the last of a loop, and a report under `CHECKED`. -/
theorem witness_MicroStepMovesTheSequencer :
    (∃ t, exec (.cfgall 2 0xF) start = .next t) ∧ (∃ t, exec (.cfgall 2 0xF) { start with u := 31 } = .next t) ∧
    (∃ t, exec .rundiag { start with u := 5 } = .next t) ∧
    ∃ t, exec .runfast { start with par := { start.par with checked := true } } = .next t :=
  ⟨⟨_, rfl⟩, ⟨_, rfl⟩, ⟨_, rfl⟩, ⟨_, rfl⟩⟩
theorem witness_StepIssuesAtMostOneTransaction : ∃ t, step (prog ⟨0x03000000, 7⟩) = .next t := ⟨_, rfl⟩
theorem witness_StepKeepsParametersAndStream : ∃ t, step (prog ⟨0x03000000, 7⟩) = .next t := ⟨_, rfl⟩
theorem witness_OnlyInitWritesTheStoredReference :
    (∃ t, exec .seton (onC13 0) = .next t) ∧ ∀ port pin, Instr.seton ≠ .initPin port pin :=
  ⟨⟨_, rfl⟩, fun _ _ h => by cases h⟩
theorem witness_NoStepUninitialisesTheDriver :
    (∃ t, step (progOnC13 ⟨0x06000500, 0⟩) = .next t) ∧ (progOnC13 ⟨0x06000500, 0⟩).drv.inited = true := ⟨⟨_, rfl⟩, rfl⟩
theorem witness_MemReadOfEachRegister : ∀ p, Ready start p := start_ready
theorem witness_MemWriteOfEachRegister : (∀ p, Ready start p) ∧ start.par.bsrConflict = .setWins := ⟨start_ready, rfl⟩
theorem witness_AccessesOutsideTheContractStop :
    (2 : Nat) ≠ 4 ∧ (0x40010801 : Word).toNat % 4 ≠ 0 ∧
    ((0x4001081C : Word).toNat % 4 = 0 ∧ ¬ RegisterWord start.par.portBase 0x4001081C) ∧
    start.par.portBase.Legal ∧ 0x40010818 = start.base .A + BitVec.ofNat 32 (4 * regIndex .lock) ∧
    ((start.setBlock .A ⟨0, 0, 0, false, false⟩).block .A).clocked = false ∧
    ((start.setBlock .A ⟨0, 0, 0, true, true⟩).block .A).clocked = true ∧
    ((start.setBlock .A ⟨0, 0, 0, true, true⟩).block .A).locked = true := by
  refine ⟨by decide, by decide, ⟨by decide, ?_⟩, by decide, by decide, by decide, by decide, by decide⟩
  rintro ⟨p, r, h⟩
  cases p <;> cases r <;> exact absurd h (by decide)
theorem witness_PortsAreIndependent :
    (Instr.initPin 2 13).port? = some Port.C.code ∧ Port.A ≠ Port.C ∧ start.u = 0 ∧ start.par.portBase.Legal ∧
      ∃ t, exec (.initPin 2 13) start = .next t := ⟨rfl, by decide, rfl, by decide, _, rfl⟩
theorem witness_RepeatedWriteChangesNothing :
    start.par.bsrConflict ≠ .any ∧ (0x80000001 : Word).extractLsb' 0 16 &&& (0x80000001 : Word).extractLsb' 16 16 = 0 ∧
      ∃ t, memWrite 0x40010810 4 0x80000001 start = .next t := ⟨by decide, by decide, _, rfl⟩
/-- The premises of every statement of a register access: the first and the last legal port, and the operands 3 and
255 that name none. -/
theorem witness_AtReturnsThePortBase : start.u = 0 ∧ 2 < (3 : Byte).toNat ∧ 2 < (255 : Byte).toNat := by decide
theorem witness_ReadsOfConfigurationRegisters :
    start.u = 0 ∧ Ready start .A ∧ Ready start .C ∧ 2 < (3 : Byte).toNat ∧ start.par.portBase.Legal :=
  ⟨rfl, start_ready _, start_ready _, by decide, by decide⟩
theorem witness_ReadsOfDataRegisters : start.u = 0 ∧ Ready start .A ∧ Ready start .C ∧ 2 < (255 : Byte).toNat :=
  ⟨rfl, start_ready _, start_ready _, by decide⟩
theorem witness_LockAndInputDataCommandsAreRefused : start.u = 0 ∧ 2 < (3 : Byte).toNat := by decide
theorem witness_WritesOfConfigurationRegisters : start.u = 0 ∧ Ready start .A ∧ Ready start .C ∧ 2 < (3 : Byte).toNat :=
  ⟨rfl, start_ready _, start_ready _, by decide⟩
theorem witness_WritesOfDataRegisters :
    (start.u = 0 ∧ Ready start .A ∧ start.par.bsrConflict = .setWins) ∧
    (Ready { start with par := { start.par with bsrConflict := .resetWins } } .C) ∧
    (Ready { start with par := { start.par with bsrConflict := .any } } .B) ∧ 2 < (3 : Byte).toNat :=
  ⟨⟨rfl, start_ready _, rfl⟩, start_ready .C, start_ready .B, by decide⟩
theorem witness_StoresChangeOneWord :
    start.par.portBase.Legal ∧ (∃ t, exec (.atPort Port.A.code) start = .next t) ∧
    (∃ t, exec (.rdCfglo Port.A.code) start = .next t) ∧ (∃ t, exec (.wrCfglo Port.A.code 1) start = .next t) ∧
    (∃ t, exec (.wrCfghi Port.A.code 1) start = .next t) ∧ (∃ t, exec (.wrSetrst Port.A.code 1) start = .next t) ∧
    (∃ t, exec (.cfgpin Port.A.code (BitVec.ofNat 8 (15 : Pin).val) 0xF) start = .next t) ∧
    (∃ t, exec (.cfgall Port.A.code 0xF) start = .next t) ∧
    ((onC13 0).drv.ref = (onC13 0).base .C ∧
      (∃ t, exec (.initPin Port.C.code (BitVec.ofNat 8 (0 : Pin).val)) (onC13 0) = .next t) ∧
      ∃ t, exec .runfast (onC13 0) = .next t) ∧
    (∃ t, exec .rundiag start = .next t) ∧ (∃ t, exec .rundiag { start with u := 5 } = .next t) ∧
    (0x40010804 : Word) ≠ start.base .A + 0x00#32 :=
  ⟨by decide, ⟨_, rfl⟩, ⟨_, rfl⟩, ⟨_, rfl⟩, ⟨_, rfl⟩, ⟨_, rfl⟩, ⟨_, rfl⟩, ⟨_, rfl⟩, ⟨rfl, ⟨_, rfl⟩, ⟨_, rfl⟩⟩,
    ⟨_, rfl⟩, ⟨_, rfl⟩, by decide⟩
theorem witness_CfgpinMicroSteps :
    (start.u = 0 ∧ start.par.checked = false ∧ Ready start .A ∧ Ready start .C) ∧
    ({ start with u := 1 }.u = 1 ∧ Ready { start with u := 1 } .C) ∧
    2 < (3 : Byte).toNat ∧ 15 < (16 : Byte).toNat ∧ 15 < (0x10 : Byte).toNat :=
  ⟨⟨rfl, rfl, start_ready _, start_ready _⟩, ⟨rfl, start_ready .C⟩, by decide, by decide, by decide⟩
theorem witness_CfgpinPreservesOtherPins :
    (Ready start .C ∧ start.u = 0) ∧ Ready { start with u := 1 } .A ∧ { start with u := 1 }.u = 1 ∧ (8 : Pin) ≠ 7 :=
  ⟨⟨start_ready _, rfl⟩, start_ready .A, rfl, by decide⟩
theorem witness_CfgpinOfDifferentPinsCommute : Ready start .C ∧ start.u = 0 ∧ (7 : Pin) ≠ 8 :=
  ⟨start_ready _, rfl, by decide⟩
theorem witness_CfgallMicroSteps :
    (start.u = 0 ∧ Ready start .A ∧ start.u < 32 ∧ start.u % 2 = 0) ∧
    (Ready { start with u := 31 } .C ∧ { start with u := 31 }.u < 32 ∧ { start with u := 31 }.u % 2 = 1) ∧
    2 < (7 : Byte).toNat ∧ 15 < (0x33 : Byte).toNat :=
  ⟨⟨rfl, start_ready _, by decide, by decide⟩, ⟨start_ready .C, by decide, by decide⟩, by decide, by decide⟩
theorem witness_CfgallFillsBothRegisters : Ready start .C ∧ start.u = 0 := ⟨start_ready _, rfl⟩
theorem witness_CfgallIsSixteenCfgpins : Ready start .A ∧ start.u = 0 := ⟨start_ready _, rfl⟩
theorem witness_InitMicroSteps :
    (start.u = 0 ∧ start.par.checked = false ∧ Ready start .A) ∧
    (Ready (onC13 0) .C ∧ { onC13 0 with u := 1 }.u = 1 ∧ { onC13 0 with u := 1 }.drv.ref = (onC13 0).base .C) ∧
    2 < (3 : Byte).toNat ∧ 15 < (16 : Byte).toNat :=
  ⟨⟨rfl, rfl, start_ready _⟩, ⟨onC13_ready _, rfl, rfl⟩, by decide, by decide⟩
theorem witness_InitConfiguresAndStoresMasks : Ready (onC13 0) .A ∧ (onC13 0).u = 0 := ⟨onC13_ready _, rfl⟩
theorem witness_SetonClearsTheOutputBit :
    (start.u = 0 ∧ start.drv.inited = false ∧ start.par.checked = false) ∧
    InitedFor (onC13 0) .C 13 ∧ Ready (onC13 0) .C ∧ (onC13 0).u = 0 :=
  ⟨⟨rfl, rfl, rfl⟩, onC13_inited, onC13_ready _, rfl⟩
theorem witness_SetoffSetsTheOutputBit :
    (start.u = 0 ∧ start.drv.inited = false ∧ start.par.checked = false) ∧
    InitedFor (onC13 0) .C 13 ∧ Ready (onC13 0) .C ∧ (onC13 0).u = 0 :=
  ⟨⟨rfl, rfl, rfl⟩, onC13_inited, onC13_ready _, rfl⟩
theorem witness_LevelStateMachine :
    InitedFor (onC13 0) .C 13 ∧ Ready (onC13 0) .C ∧ (onC13 0).u = 0 ∧ (onC13 0).slotValue .C 13 = 0x3 :=
  ⟨onC13_inited, onC13_ready _, rfl, by decide⟩
theorem witness_InitOnOffTransactions : Ready start .C ∧ start.u = 0 := ⟨start_ready _, rfl⟩
theorem witness_LevelCommandsAreIdempotent : InitedFor (onC13 0) .C 13 ∧ Ready (onC13 0) .C ∧ (onC13 0).u = 0 :=
  ⟨onC13_inited, onC13_ready _, rfl⟩
theorem witness_CheckedVariantReports :
    { start with par := { start.par with checked := true } }.u = 0 ∧
    { start with par := { start.par with checked := true } }.par.checked = true ∧
    { start with par := { start.par with checked := true } }.drv.inited = false ∧
    2 < (3 : Byte).toNat ∧ 15 < (16 : Byte).toNat ∧ 15 < (255 : Byte).toNat := by decide
theorem witness_RunfastMicroSteps :
    (start.u = 0 ∧ start.drv.inited = false ∧ start.par.checked = false) ∧
    InitedFor (onC13 0) .C 13 ∧ Ready (onC13 0) .C ∧ (onC13 0).par.fastResetWord = .offMask ∧ (onC13 0).u = 0 ∧
    InitedFor { onC13 0 with u := 1 } .C 13 ∧ { onC13 0 with u := 1 }.u = 1 :=
  ⟨⟨rfl, rfl, rfl⟩, onC13_inited, onC13_ready _, rfl, rfl, onC13_inited, rfl⟩
theorem witness_RunfastWithAFixedResetWord :
    InitedFor { onC13 0 with par := { start.par with fastResetWord := .fixed 0xFFFF } } .C 13 ∧
    Ready { onC13 0 with par := { start.par with fastResetWord := .fixed 0xFFFF } } .C ∧
    InitedFor { onC13 0 with par := { start.par with fastResetWord := .fixed 0xFFFF }, u := 1 } .C 13 :=
  ⟨onC13_inited, onC13_ready .C, onC13_inited⟩
theorem witness_RunfastTogglesForever :
    InitedFor (onC13 0) .C 13 ∧ Ready (onC13 0) .C ∧ (onC13 0).par.fastResetWord = .offMask ∧ (onC13 0).u = 0 :=
  ⟨onC13_inited, onC13_ready _, rfl, rfl⟩
theorem witness_RundiagMicroSteps :
    (∀ p, Ready start p) ∧ start.par = hardwareParams start.par.portBase ∧ start.u < 6 ∧
      (∀ p, Ready { start with u := 5 } p) ∧ { start with u := 5 }.u < 6 :=
  ⟨start_ready, rfl, by decide, fun p => start_ready p, by decide⟩
theorem witness_RundiagWithAnyParameters :
    ((∀ p, Ready start p) ∧ start.u < 3 ∧ start.u < 6) ∧
    ∀ mode, (∀ p, Ready { start with par := { start.par with bsrConflict := mode }, u := 3 } p) ∧
      { start with par := { start.par with bsrConflict := mode }, u := 3 }.par.bsrConflict = mode ∧
      (3 ≤ { start with u := 3 }.u ∧ { start with u := 5 }.u < 6) :=
  ⟨⟨start_ready, by decide, by decide⟩, fun _ => ⟨fun p => start_ready p, rfl, by decide⟩⟩
theorem witness_RundiagPatternForever :
    (∀ p, Ready start p) ∧ start.par = hardwareParams start.par.portBase ∧ start.u = 0 := ⟨start_ready, rfl, rfl⟩

/-- A CFGPIN command in the middle of which the other agent writes the same register. -/
def raced : State :=
  { prog ⟨0x04000503, 0⟩ with turns := [.driver, .other (.write 0x40010800 0x11111111), .driver] }

theorem witness_LostUpdateOfConfiguration :
    Ready raced .A ∧ raced.u = 0 ∧ raced.stream[raced.cp]? = some ⟨0x04000503, 0⟩ ∧
    decode ⟨0x04000503, 0⟩ = .ok (.cfgpin Port.A.code (BitVec.ofNat 8 (5 : Pin).val) ((3 : Nibble).setWidth 8)) ∧
    raced.turns = [.driver, .other (.write (raced.base .A + if (5 : Pin).val < 8 then 0x00#32 else 0x04#32) 0x11111111),
      .driver] := ⟨start_ready .A, rfl, rfl, by decide, by decide⟩
theorem witness_SetrstWritesOfDifferentPinsCommute :
    Ready start .A ∧ (0 : Pin) ≠ 15 ∧ (0x00000001 : Word) = 1#32 <<< (0 : Pin).val ∧
      (0x80000000 : Word) = 1#32 <<< ((15 : Pin).val + 16) := ⟨start_ready _, by decide, by decide, by decide⟩
theorem witness_OtherAgentLeavesTheDriver :
    { start with turns := [.other (.write 0x40010810 4)] }.turns = .other (.write 0x40010810 4) :: [] ∧
      ∃ t, step { start with turns := [.other (.write 0x40010810 4)] } = .next t := ⟨rfl, _, rfl⟩
theorem witness_InvariantAtReset : (hardwareParams suggestedBases).portBase.Legal := by decide
theorem witness_StepKeepsTheInvariant : Inv (prog ⟨0x06020D00, 0⟩) ∧ ∃ t, step (prog ⟨0x06020D00, 0⟩) = .next t :=
  ⟨prog_inv _, _, rfl⟩
theorem witness_LegalCommandsNeverStop :
    Inv (progOnC13 ⟨0x07000000, 0⟩) ∧ (progOnC13 ⟨0x07000000, 0⟩).turns = [] ∧
    (progOnC13 ⟨0x07000000, 0⟩).current = some .seton ∧ Instr.seton.wellFormed = true ∧
    refusedBySpec .seton = false ∧ (Instr.seton.needsInit = true → (progOnC13 ⟨0x07000000, 0⟩).drv.inited = true) :=
  ⟨progOnC13_inv _, rfl, by decide, by decide, rfl, fun _ => rfl⟩
/-- Each reason to stop is met by some state of the invariant. -/
theorem witness_DriverStopsOnlyForNamedReasons :
    (∀ c, Inv (prog c)) ∧ Inv start ∧
    step (prog ⟨0x01030000, 0⟩) = .fault (.invalidBase 3) ∧ step (prog ⟨0x04001003, 0⟩) = .fault (.pinOutOfRange 16) ∧
    step (prog ⟨0x04000510, 0⟩) = .fault (.configOutOfRange 0x10) ∧
    step (prog ⟨0x07000000, 0⟩) = .fault .notInitialized ∧ step start = .refused .endOfStream ∧
    step (prog ⟨0x0B000000, 0⟩) = .refused (.illegalCommand 0x0B000000) ∧
    step (prog ⟨0x02000600, 0⟩) = .refused .lockNotModelled ∧
    step (prog ⟨0x03000200, 1⟩) = .refused .writeToInputData := by
  refine ⟨prog_inv, ?_, rfl, rfl, rfl, rfl, rfl, rfl, rfl, rfl⟩
  exact { bases := by decide, live := fun p => (start_ready p).2, driver := fun h => (by cases h),
          microStep := fun i _ => microSteps_pos i, midInit := fun _ _ _ h => (by cases h),
          midFast := fun _ h => (by cases h), issued := fun x h => (by cases h) }

end Sys2Proof.Tests
end

/-! SUPPORT. What a whole step of the machine can do (rules R5, R25, R49): at most one bus transaction of the driver,
and nothing to what belongs to the environment of the run. -/

namespace Sys2Proof.Machine

/-! ### One micro-step of the driver -/

/-- What the bus has done for the driver in one micro-step: nothing, one read, or one write. -/
inductive BusEvent (s : State) : State → Prop where
  | silent : BusEvent s s
  | read {addr v : Word} {t : State} (h : ReadDone s addr v t) : BusEvent s t
  | write {addr v : Word} {t : State} (h : WriteDone s addr v t) : BusEvent s t

/-- A micro-step of the driver: at most one bus event, then the driver's own fields and the sequencer's. -/
def DriverMove (s t : State) : Prop :=
  ∃ s' drv cp u result, BusEvent s s' ∧ t = { s' with drv := drv, cp := cp, u := u, result := result }

theorem Reported.driverMove {r : Report} {s t : State} (h : Reported r s t) : DriverMove s t :=
  ⟨s, _, _, _, _, .silent, h.2⟩

theorem ReadDone.driverMove {s s' : State} {addr v : Word} (h : ReadDone s addr v s') (drv : Driver) (cp u : Nat)
    (result : Response) : DriverMove s { s' with drv := drv, cp := cp, u := u, result := result } :=
  ⟨s', drv, cp, u, result, .read h, rfl⟩

theorem WriteDone.driverMove {s s' : State} {addr v : Word} (h : WriteDone s addr v s') (drv : Driver) (cp u : Nat)
    (result : Response) : DriverMove s { s' with drv := drv, cp := cp, u := u, result := result } :=
  ⟨s', drv, cp, u, result, .write h, rfl⟩

/-- INIT selects its port before it reads: the read is the same one, made before the selection. -/
theorem ReadDone.of_select {s t : State} {ref addr v : Word} (h : ReadDone (s.select ref) addr v t) :
    ∃ s', ReadDone s addr v s' ∧ t = s'.select ref := by
  obtain ⟨hword, d, ht⟩ := h
  exact ⟨_, ⟨hword, d, rfl⟩, ht⟩

theorem execAt_driverMove {port : Byte} {s t : State} (h : execAt port s = .next t) : DriverMove s t := by
  obtain ⟨p, -, -, ht⟩ := execAt_next h
  exact ⟨s, _, _, _, _, .silent, ht⟩

theorem readCommand_driverMove {r : Reg} {port : Byte} {s t : State} (h : readCommand r port s = .next t) :
    DriverMove s t := by
  obtain ⟨p, v, s', -, -, hr, rfl⟩ := readCommand_next h
  exact hr.driverMove _ _ _ _

theorem writeCommand_driverMove {r : Reg} {port : Byte} {w : Word} {s t : State}
    (h : writeCommand r port w s = .next t) : DriverMove s t := by
  obtain ⟨p, s', -, -, hw, rfl⟩ := writeCommand_next h
  exact hw.driverMove _ _ _ _

theorem execCfgpin_driverMove {port pin cfg : Byte} {s t : State} (h : execCfgpin port pin cfg s = .next t) :
    DriverMove s t := by
  obtain ⟨p, -, ⟨-, hrep⟩ | ⟨n, -, ⟨-, v, s', hr, rfl⟩ | ⟨-, c, s', -, hw, rfl⟩⟩⟩ := execCfgpin_next h
  · exact hrep.driverMove
  · exact hr.driverMove _ _ _ _
  · exact hw.driverMove _ _ _ _

theorem execCfgall_driverMove {port cfg : Byte} {s t : State} (h : execCfgall port cfg s = .next t) :
    DriverMove s t := by
  obtain ⟨p, -, -, ⟨-, v, s', hr, rfl⟩ | ⟨-, c, s', -, hw, rfl⟩⟩ := execCfgall_next h
  · exact hr.driverMove _ _ _ _
  · split
    · exact hw.driverMove _ _ _ _
    · exact hw.driverMove _ _ _ _

theorem execInit_driverMove {port pin : Byte} {s t : State} (h : execInit port pin s = .next t) : DriverMove s t := by
  obtain ⟨p, -, ⟨-, hrep⟩ | ⟨n, -, ⟨-, v, s', hr, rfl⟩ | ⟨-, s', hw, rfl⟩⟩⟩ := execInit_next h
  · exact hrep.driverMove
  · obtain ⟨s'', hread, rfl⟩ := hr.of_select
    exact hread.driverMove _ _ _ _
  · exact hw.driverMove _ _ _ _

theorem levelCommand_driverMove {word : Word} {s t : State} (h : levelCommand word s = .next t) :
    DriverMove s t := by
  obtain ⟨-, ⟨-, hrep⟩ | ⟨-, s', hw, rfl⟩⟩ := levelCommand_next h
  · exact hrep.driverMove
  · exact hw.driverMove _ _ _ _

theorem execRunfast_driverMove {s t : State} (h : execRunfast s = .next t) : DriverMove s t := by
  obtain ⟨-, ⟨-, hrep⟩ | ⟨-, s', hw, rfl⟩⟩ | ⟨-, s', hw, rfl⟩ := execRunfast_next h
  · exact hrep.driverMove
  · exact hw.driverMove _ _ _ _
  · exact hw.driverMove _ _ _ _

theorem execRundiag_driverMove {s t : State} (h : execRundiag s = .next t) : DriverMove s t := by
  obtain ⟨-, s', hw, rfl⟩ := execRundiag_next h
  exact hw.driverMove _ _ _ _

/-- Everything one micro-step of any command can do, as far as the bus and the environment see it. -/
theorem exec_driverMove {i : Instr} {s t : State} (h : exec i s = .next t) : DriverMove s t := by
  cases i with
  | atPort _ => exact execAt_driverMove h
  | rdCfglo _ | rdCfghi _ | rdIdata _ | rdOdata _ | rdSetrst _ | rdRstonly _ => exact readCommand_driverMove h
  | wrCfglo _ _ | wrCfghi _ _ | wrOdata _ _ | wrSetrst _ _ | wrRstonly _ _ => exact writeCommand_driverMove h
  | rdLock _ | wrIdata _ _ | wrLock _ _ => exact absurd h refusedCommand_not_next
  | cfgpin _ _ _ => exact execCfgpin_driverMove h
  | cfgall _ _ => exact execCfgall_driverMove h
  | initPin _ _ => exact execInit_driverMove h
  | seton | setoff => exact levelCommand_driverMove h
  | runfast => exact execRunfast_driverMove h
  | rundiag => exact execRundiag_driverMove h

/-! ### One event of the other agent, and one step -/

/-- A bus write, by either agent, changes the stored registers of one port and at most the draw counter. -/
theorem memWrite_premises {addr v : Word} {n : Nat} {s t : State} (h : memWrite addr n v s = .next t) :
    ∃ p k d, t = { s with ports := s.ports.set p k, draws := d } ∧
      k.locked = (s.block p).locked ∧ k.clocked = (s.block p).clocked := by
  obtain ⟨p, r, k, d, -, -, ht, hlocked, hclocked, -⟩ := memWrite_next h
  exact ⟨p, k, d, ht, hlocked, hclocked⟩

/-- Everything an event of the other agent can do: a read changes its latch and at most the draw counter, a write the
stored registers of one port and at most the draw counter. -/
theorem otherEvent_next {e : OtherEvent} {s t : State} (h : otherEvent e s = .next t) :
    (∃ d v, t = { s with draws := d, otherT := v }) ∨
      ∃ p k d, t = { s with ports := s.ports.set p k, draws := d } ∧
        k.locked = (s.block p).locked ∧ k.clocked = (s.block p).clocked := by
  cases e with
  | read addr =>
    obtain ⟨a, hr, ht⟩ := andThen_eq_next h
    cases ht
    obtain ⟨-, hs | hs⟩ := memRead_next hr
    · exact .inl ⟨s.draws, a.1, by rw [hs]⟩
    · exact .inl ⟨s.draws + 1, a.1, by rw [hs]⟩
  | write addr data => exact .inr (memWrite_premises h)
  | modify addr keep bits => exact .inr (memWrite_premises h)

theorem driverStep_next {s t : State} (h : driverStep s = .next t) : ∃ i, s.current = some i ∧ exec i s = .next t := by
  unfold driverStep at h
  split at h
  · cases h
  · rename_i c hc
    split at h
    · rename_i i hi
      exact ⟨i, by simp [State.current, hc, hi], h⟩
    · cases h

/-- Everything a step can do: the current command runs one micro-step, or the other agent makes the listed event; the
turn is used up in both cases. -/
theorem step_next {s t : State} (h : step s = .next t) :
    (∃ i, s.current = some i ∧ exec i { s with turns := s.turns.tail } = .next t) ∨
      ∃ e rest, s.turns = .other e :: rest ∧ otherEvent e { s with turns := s.turns.tail } = .next t := by
  unfold step takeTurn at h
  split at h
  · rename_i hturns
    have htail : s.turns.tail = s.turns := by rw [hturns]; rfl
    rw [htail]
    exact .inl (driverStep_next h)
  · rename_i rest hturns
    rw [hturns]
    exact .inl (driverStep_next h)
  · rename_i e rest hturns
    rw [hturns]
    exact .inr ⟨e, rest, rfl, h⟩

/-! ### What a step leaves to the environment -/

/-- What belongs to the environment of a run stays: the parameters, the stream, the turns still to come, and the
premises of every port. -/
def EnvironmentKept (s t : State) : Prop :=
  t.par = s.par ∧ t.stream = s.stream ∧ t.turns = s.turns ∧
    ∀ p, (t.block p).clocked = (s.block p).clocked ∧ (t.block p).locked = (s.block p).locked

/-- Replacing the stored registers of one port keeps the premises of every port. -/
theorem premises_set {ps : Ports} {p : Port} {k : PortBlock} (hlocked : k.locked = (ps.get p).locked)
    (hclocked : k.clocked = (ps.get p).clocked) (q : Port) :
    ((ps.set p k).get q).clocked = (ps.get q).clocked ∧ ((ps.set p k).get q).locked = (ps.get q).locked := by
  rw [Ports.get_set]
  split
  · rename_i hq
    rw [hq]
    exact ⟨hclocked, hlocked⟩
  · exact ⟨rfl, rfl⟩

theorem BusEvent.environmentKept {s t : State} (h : BusEvent s t) : EnvironmentKept s t := by
  cases h with
  | silent => exact ⟨rfl, rfl, rfl, fun _ => ⟨rfl, rfl⟩⟩
  | read h =>
    obtain ⟨-, d, rfl⟩ := h
    exact ⟨rfl, rfl, rfl, fun _ => ⟨rfl, rfl⟩⟩
  | write h =>
    obtain ⟨p, r, k, d, -, rfl, hlocked, hclocked, -⟩ := h
    exact ⟨rfl, rfl, rfl, premises_set hlocked hclocked⟩

theorem DriverMove.environmentKept {s t : State} (h : DriverMove s t) : EnvironmentKept s t := by
  obtain ⟨s', drv, cp, u, result, hbus, rfl⟩ := h
  exact hbus.environmentKept

theorem otherEvent_environmentKept {e : OtherEvent} {s t : State} (h : otherEvent e s = .next t) :
    EnvironmentKept s t := by
  obtain ⟨d, v, rfl⟩ | ⟨p, k, d, rfl, hlocked, hclocked⟩ := otherEvent_next h
  · exact ⟨rfl, rfl, rfl, fun _ => ⟨rfl, rfl⟩⟩
  · exact ⟨rfl, rfl, rfl, premises_set hlocked hclocked⟩

/-- Settles O17: neither agent's move touches the environment, and the step uses up the first turn. -/
theorem stepKeepsParametersAndStream : Obligations.StepKeepsParametersAndStream := by
  intro s t h
  have hkept : EnvironmentKept { s with turns := s.turns.tail } t := by
    obtain ⟨i, -, hexec⟩ | ⟨e, rest, -, hother⟩ := step_next h
    · exact (exec_driverMove hexec).environmentKept
    · exact otherEvent_environmentKept hother
  exact hkept

/-! ### The transactions of a step -/

/-- The trace has grown by at most one transaction, at one of the 21 words (rule R40). -/
def IssuesAtMostOne (s t : State) : Prop :=
  t.trace = s.trace ∨ ∃ x, t.trace = s.trace ++ [x] ∧ RegisterWord s.par.portBase x.addr

theorem BusEvent.issuesAtMostOne {s t : State} (h : BusEvent s t) : IssuesAtMostOne s t := by
  cases h with
  | silent => exact .inl rfl
  | read h =>
    obtain ⟨hword, d, rfl⟩ := h
    exact .inr ⟨_, rfl, hword⟩
  | write h =>
    obtain ⟨p, r, k, d, haddr, rfl, -⟩ := h
    exact .inr ⟨_, rfl, p, r, haddr⟩

theorem DriverMove.issuesAtMostOne {s t : State} (h : DriverMove s t) : IssuesAtMostOne s t := by
  obtain ⟨s', drv, cp, u, result, hbus, rfl⟩ := h
  exact hbus.issuesAtMostOne

theorem otherEvent_trace {e : OtherEvent} {s t : State} (h : otherEvent e s = .next t) : t.trace = s.trace := by
  obtain ⟨d, v, rfl⟩ | ⟨p, k, d, rfl, -⟩ := otherEvent_next h
  · rfl
  · rfl

/-- Settles O16: a micro-step of the driver makes at most one bus event, and the other agent's events are not in the
driver's trace. -/
theorem stepIssuesAtMostOneTransaction : Obligations.StepIssuesAtMostOneTransaction := by
  intro s t h
  obtain ⟨i, -, hexec⟩ | ⟨e, rest, -, hother⟩ := step_next h
  · exact (exec_driverMove hexec).issuesAtMostOne
  · have htrace := otherEvent_trace hother
    exact .inl htrace

/-! ### The driver's writes to SETRST and RSTONLY -/

/-- The draw of a SETRST write matters only for a word with some bit N and bit N+16 both 1 (rule R17). -/
theorem afterSetrst_draw_irrelevant {v : Word} (h : lowHalf v &&& highHalf v = 0) (mode : BsrConflict) (d d' : Word)
    (old : Half) : afterSetrst mode d old v = afterSetrst mode d' old v := by
  cases mode with
  | setWins => rfl
  | resetWins => rfl
  | any => simp [afterSetrst, h]

/-- A word with no reset bit sets its low bits, under every setting of `BSR_CONFLICT` (rule R17). -/
theorem afterSetrst_of_highHalf_zero {v : Word} (h : highHalf v = 0#16) (mode : BsrConflict) (d : Word) (old : Half) :
    afterSetrst mode d old v = old ||| lowHalf v := by
  have hkeep (x : Half) : x &&& ~~~0#16 = x := BitVec.and_allOnes
  cases mode with
  | setWins => simp only [afterSetrst, h, hkeep]
  | resetWins => simp only [afterSetrst, h, hkeep]
  | any => simp only [afterSetrst, h, hkeep, BitVec.and_zero, BitVec.or_zero]

@[simp] theorem lowHalf_offMask (n : Pin) : lowHalf (1#32 <<< n.val) = 1#16 <<< n.val := by
  revert n; decide

@[simp] theorem highHalf_offMask (n : Pin) : highHalf (1#32 <<< n.val) = 0#16 := by
  revert n; decide

/-- The draw counter after a SETRST write (log entry 4). -/
def drawsAfterSetrst (v : Word) (s : State) : Nat :=
  if s.par.bsrConflict = .any ∧ lowHalf v &&& highHalf v ≠ 0 then s.draws + 1 else s.draws

/-- A SETRST write in one equation, the same for every setting of `BSR_CONFLICT`. -/
theorem writeSetrst_eq (p : Port) (v : Word) (s : State) :
    writeSetrst p v s = { s with
      ports := s.ports.set p { s.block p with
        odata := afterSetrst s.par.bsrConflict (Config.draw32 (.conflict p) s.draws) (s.block p).odata v }
      draws := drawsAfterSetrst v s } := by
  unfold writeSetrst drawsAfterSetrst
  split
  · rename_i hany
    rw [hany.1]
    rfl
  · rename_i hno
    have hdraw : afterSetrst s.par.bsrConflict 0 (s.block p).odata v =
        afterSetrst s.par.bsrConflict (Config.draw32 (.conflict p) s.draws) (s.block p).odata v := by
      cases hmode : s.par.bsrConflict with
      | setWins => rfl
      | resetWins => rfl
      | any => exact afterSetrst_draw_irrelevant (by simpa [hmode] using hno) _ _ _ _
    rw [hdraw]
    rfl

theorem drawsAfterSetrst_of_ne_any {s : State} (h : s.par.bsrConflict ≠ .any) (v : Word) :
    drawsAfterSetrst v s = s.draws := if_neg fun hany => h hany.1

theorem drawsAfterSetrst_of_highHalf_zero {v : Word} (h : highHalf v = 0#16) (s : State) :
    drawsAfterSetrst v s = s.draws := if_neg fun hany => hany.2 (by simp [h])

/-- The driver's write to RSTONLY of a port that meets the premises. -/
theorem busWrite_rstonly {s : State} {p : Port} (h : Ready s p) (v : Word) :
    busWrite (regAddress (s.base p) .rstonly) v s = .next { s with
      ports := s.ports.set p { s.block p with odata := (s.block p).odata &&& ~~~(lowHalf v) }
      trace := s.trace ++ [⟨.write, s.base p + 0x14#32, v⟩] } := by
  rw [busWrite_ready h]
  rfl

/-- The driver's write to SETRST of a port that meets the premises. -/
theorem busWrite_setrst {s : State} {p : Port} (h : Ready s p) (v : Word) :
    busWrite (regAddress (s.base p) .setrst) v s = .next { s with
      ports := s.ports.set p { s.block p with
        odata := afterSetrst s.par.bsrConflict (Config.draw32 (.conflict p) s.draws) (s.block p).odata v }
      draws := drawsAfterSetrst v s
      trace := s.trace ++ [⟨.write, s.base p + 0x10#32, v⟩] } := by
  rw [busWrite_ready h, show writeReg p .setrst v s = .next (writeSetrst p v s) from rfl, writeSetrst_eq]
  rfl

/-- The off mask of a pin written to SETRST sets the output bit of that pin and changes nothing else (rule R69). -/
theorem busWrite_setrst_offMask {s : State} {p : Port} (h : Ready s p) (n : Pin) :
    busWrite (regAddress (s.base p) .setrst) (1#32 <<< n.val) s = .next { s with
      ports := s.ports.set p { s.block p with odata := (s.block p).odata ||| (1#16 <<< n.val) }
      trace := s.trace ++ [⟨.write, s.base p + 0x10#32, 1#32 <<< n.val⟩] } := by
  rw [busWrite_setrst h, afterSetrst_of_highHalf_zero (highHalf_offMask n),
    drawsAfterSetrst_of_highHalf_zero (highHalf_offMask n), lowHalf_offMask]

/-! ### RUNFAST -/

/-- The first micro-step of RUNFAST on an initialised driver, for every setting of `FAST_RESET_WORD` (rule R120). -/
theorem exec_runfast_reset {s : State} {p : Port} {n : Pin} (hi : InitedFor s p n) (h : Ready s p) (hu : s.u = 0) :
    exec .runfast s = .next { s with
      ports := s.ports.set p { s.block p with
        odata := (s.block p).odata &&& ~~~(lowHalf (fastResetWord s.par s.drv)) }
      u := 1, trace := s.trace ++ [⟨.write, s.base p + 0x14#32, fastResetWord s.par s.drv⟩] } := by
  obtain ⟨hinited, href, -, -⟩ := hi
  change execRunfast s = _
  simp only [execRunfast, hu, whenInited, hinited, href, busWrite_rstonly h]
  rfl

/-- The second micro-step of RUNFAST (rule R120); the fast reset word has no part in it. -/
theorem exec_runfast_set {s : State} {p : Port} {n : Pin} (hi : InitedFor s p n) (h : Ready s p) (hu : s.u = 1) :
    exec .runfast s = .next { s with
      ports := s.ports.set p { s.block p with odata := (s.block p).odata ||| (1#16 <<< n.val) }
      u := 0, trace := s.trace ++ [⟨.write, s.base p + 0x10#32, 1#32 <<< n.val⟩] } := by
  obtain ⟨-, href, hoff, -⟩ := hi
  change execRunfast s = _
  simp only [execRunfast, hu, href, hoff, busWrite_setrst_offMask h]
  rfl

/-- Settles O47: the first micro-step writes the parameter's word, the second the off mask. -/
theorem runfastWithAFixedResetWord : Obligations.RunfastWithAFixedResetWord := by
  intro s p n w hi hready hword
  have hw : fastResetWord s.par s.drv = w := by simp [fastResetWord, hword]
  refine ⟨fun hu => ?_, exec_runfast_set hi hready⟩
  rw [exec_runfast_reset hi hready hu, hw]
  rfl

/-! ### RUNDIAG -/

/-- The port of the current micro-step of RUNDIAG: `DIAG_PORT_ORDER` once in each phase (rule R121). -/
def diagPort (s : State) : Port :=
  if s.u % 3 = 0 then s.par.diagOrder.first else if s.u % 3 = 1 then s.par.diagOrder.second else s.par.diagOrder.third

/-- The reset phase of RUNDIAG, micro-steps 0 to 2. -/
theorem execRundiag_resetPhase {s : State} (hu : s.u < 3) :
    execRundiag s = diagWrite (diagPort s) .rstonly s.par.diagResetWord (s.u + 1) s := by
  have hcases : s.u = 0 ∨ s.u = 1 ∨ s.u = 2 := by omega
  rcases hcases with h | h | h <;> simp [execRundiag, diagPort, h]

/-- The set phase of RUNDIAG, micro-steps 3 to 5. -/
theorem execRundiag_setPhase {s : State} (hu : 3 ≤ s.u) (hu6 : s.u < 6) :
    execRundiag s = diagWrite (diagPort s) .setrst s.par.diagSetWord (if s.u = 5 then 0 else s.u + 1) s := by
  have hcases : s.u = 3 ∨ s.u = 4 ∨ s.u = 5 := by omega
  rcases hcases with h | h | h <;> simp [execRundiag, diagPort, h]

/-- Settles O50: the reset phase writes RSTONLY and the set phase SETRST, each of the port that the order names. -/
theorem rundiagWithAnyParameters : Obligations.RundiagWithAnyParameters := by
  intro s hready hu6
  refine ⟨fun hu => ?_, fun hu => ?_⟩
  · change execRundiag s = _
    rw [execRundiag_resetPhase hu, diagWrite, busWrite_rstonly (hready _)]
    rfl
  · refine ⟨afterSetrst s.par.bsrConflict (Config.draw32 (.conflict (diagPort s)) s.draws)
        (s.block (diagPort s)).odata s.par.diagSetWord, drawsAfterSetrst s.par.diagSetWord s, ?_, ?_, ?_, ?_⟩
    · change execRundiag s = _
      rw [execRundiag_setPhase hu hu6, diagWrite, busWrite_setrst (hready _)]
      rfl
    · intro hmode
      exact ⟨by rw [hmode]; rfl, drawsAfterSetrst_of_ne_any (by simp [hmode]) _⟩
    · intro hmode
      exact ⟨by rw [hmode]; rfl, drawsAfterSetrst_of_ne_any (by simp [hmode]) _⟩
    · intro hmode
      exact ⟨_, by rw [hmode]; rfl⟩

end Sys2Proof.Machine

/-! SUPPORT. The register rules on the bus (rules R12 to R21, R41 to R44): what a read and a write of each register do,
where an access stops, and what a word written to SETRST or RSTONLY does to each pin. -/

namespace Sys2Proof.Machine

/-! ### The bits of a word written to SETRST or RSTONLY -/

theorem lowHalf_getLsbD (v : Word) (n : Pin) : (lowHalf v).getLsbD n.val = v.getLsbD n.val := by
  simp [lowHalf, n.isLt]

theorem highHalf_getLsbD (v : Word) (n : Pin) : (highHalf v).getLsbD n.val = v.getLsbD (n.val + 16) := by
  simp [highHalf, n.isLt, Nat.add_comm]

/-- The output bit that `BSR_CONFLICT` gives where set and reset bit are both 1 (rule R17). -/
def conflictBit : BsrConflict → Bool → Bool
  | .setWins, _ => true
  | .resetWins, _ => false
  | .any, drawn => drawn

/-- Rule R17 as one equation for each bit. -/
theorem afterSetrst_getLsbD (mode : BsrConflict) (d : Word) (old : Half) (v : Word) (n : Pin) :
    (afterSetrst mode d old v).getLsbD n.val =
      if v.getLsbD n.val && v.getLsbD (n.val + 16) then conflictBit mode (d.getLsbD n.val)
      else v.getLsbD n.val || (old.getLsbD n.val && !v.getLsbD (n.val + 16)) := by
  cases mode
  all_goals
    simp only [afterSetrst, conflictBit, BitVec.getLsbD_or, BitVec.getLsbD_and, BitVec.getLsbD_not, n.isLt,
      lowHalf_getLsbD, highHalf_getLsbD]
    -- Each setting is a truth table in the set bit, the reset bit, the old bit and the drawn bit.
    generalize v.getLsbD n.val = set, v.getLsbD (n.val + 16) = rst, old.getLsbD n.val = kept, d.getLsbD n.val = drawn
    revert set rst kept drawn
    decide

/-- Settles O11: the four cases of set bit and reset bit in the equation of rule R17. -/
theorem setrstWordBitByBit : Obligations.SetrstWordBitByBit := by
  intro d old v n
  refine ⟨fun hset hrst mode => ?_, fun hset hrst mode => ?_, fun hset hrst mode => ?_,
    fun hset hrst => ⟨?_, ?_, ?_⟩⟩
  all_goals
    rw [afterSetrst_getLsbD, hset, hrst]
    simp [conflictBit]

/-- Settles O12: only the low half-word is complemented. -/
theorem rstonlyWordBitByBit : Obligations.RstonlyWordBitByBit := by
  intro old v n
  rw [afterRstonly, BitVec.getLsbD_and, BitVec.getLsbD_not, lowHalf_getLsbD]
  simp

/-! ### A word that changes one pin -/

/-- The word that a SETRST write takes to give pin `n` the output bit `b` and leave every other pin (rule R67). -/
def pinWord (n : Pin) (b : Bool) : Word := if b then 1#32 <<< n.val else 1#32 <<< (n.val + 16)

theorem pinWord_set_ne_reset (n : Pin) : pinWord n true ≠ pinWord n false := by
  revert n; decide

theorem pinWord_getLsbD_low (n k : Pin) (b : Bool) : (pinWord n b).getLsbD k.val = (b && decide (k = n)) := by
  revert n k b; decide

theorem pinWord_getLsbD_high (n k : Pin) (b : Bool) :
    (pinWord n b).getLsbD (k.val + 16) = (!b && decide (k = n)) := by
  revert n k b; decide

theorem pinWord_no_conflict (n : Pin) (b : Bool) : lowHalf (pinWord n b) &&& highHalf (pinWord n b) = 0 := by
  revert n b; decide

/-- A pin's word gives that pin its bit and keeps the others, at every setting of `BSR_CONFLICT`. -/
theorem afterSetrst_pinWord (mode : BsrConflict) (d : Word) (old : Half) (n k : Pin) (b : Bool) :
    (afterSetrst mode d old (pinWord n b)).getLsbD k.val = if k = n then b else old.getLsbD k.val := by
  rw [afterSetrst_getLsbD, pinWord_getLsbD_low, pinWord_getLsbD_high]
  by_cases hk : k = n
  · cases b <;> simp [hk]
  · simp [hk]

/-- Two sets of output bits agree where every pin's bit agrees. -/
theorem half_ext {x y : Half} (h : ∀ k : Pin, x.getLsbD k.val = y.getLsbD k.val) : x = y :=
  BitVec.eq_of_getLsbD_eq fun k hk => h ⟨k, hk⟩

/-! ### The bus at a port that meets the premises -/

theorem memRead_ready {s : State} {p : Port} (h : Ready s p) (r : Reg) :
    memRead (regAddress (s.base p) r) 4 s = readReg p r s := by
  simp [memRead, access_regAddress h]

theorem memWrite_ready {s : State} {p : Port} (h : Ready s p) (r : Reg) (v : Word) :
    memWrite (regAddress (s.base p) r) 4 v s = writeReg p r v s := by
  simp [memWrite, access_regAddress h]

/-- Settles O20: each of the seven addresses selects its register, whose read rule answers. -/
theorem memReadOfEachRegister : Obligations.MemReadOfEachRegister := by
  intro s p h
  exact ⟨memRead_ready h .cfglo, memRead_ready h .cfghi, ⟨_, memRead_ready h .idata⟩, memRead_ready h .odata,
    ⟨_, memRead_ready h .setrst⟩, ⟨_, memRead_ready h .rstonly⟩, memRead_ready h .lock⟩

/-- The write to SETRST of a port that meets the premises. -/
theorem memWrite_setrst {s : State} {p : Port} (h : Ready s p) (v : Word) :
    memWrite (regAddress (s.base p) .setrst) 4 v s = .next { s with
      ports := s.ports.set p { s.block p with
        odata := afterSetrst s.par.bsrConflict (Config.draw32 (.conflict p) s.draws) (s.block p).odata v }
      draws := drawsAfterSetrst v s } := by
  rw [memWrite_ready h, ← writeSetrst_eq]
  rfl

/-- Settles O21: each of the seven addresses selects its register; under `set_wins` SETRST draws nothing. -/
theorem memWriteOfEachRegister : Obligations.MemWriteOfEachRegister := by
  intro s p v h hmode
  have hsetrst := memWrite_setrst h v
  rw [drawsAfterSetrst_of_ne_any (by simp [hmode]), hmode] at hsetrst
  exact ⟨memWrite_ready h .cfglo v, memWrite_ready h .cfghi v, memWrite_ready h .idata v, memWrite_ready h .odata v,
    hsetrst, memWrite_ready h .rstonly v, memWrite_ready h .lock v⟩

/-! ### The bus outside the contract -/

/-- An access that is refused refuses the read and the write. -/
theorem access_refused {addr v : Word} {n : Nat} {s : State} {r : Refusal} (h : access addr n s = .refused r) :
    memRead addr n s = .refused r ∧ memWrite addr n v s = .refused r := by
  simp [memRead, memWrite, h]

theorem access_width {n : Nat} (h : n ≠ 4) (addr : Word) (s : State) :
    access addr n s = .refused (.accessWidth n) := by
  simp [access, h]

theorem access_misaligned {addr : Word} (h : addr.toNat % 4 ≠ 0) (s : State) :
    access addr 4 s = .refused (.misaligned addr) := by
  simp [access, h]

theorem decodeAddress_eq_none {b : Bases} {addr : Word} (h : ¬ RegisterWord b addr) : decodeAddress b addr = none := by
  cases hd : decodeAddress b addr with
  | none => rfl
  | some a => exact absurd ⟨a.1, a.2, decodeAddress_eq_some hd⟩ h

theorem access_unmapped {addr : Word} {s : State} (halign : addr.toNat % 4 = 0)
    (h : ¬ RegisterWord s.par.portBase addr) : access addr 4 s = .fault (.unmappedAddress addr) := by
  simp [access, halign, decodeAddress_eq_none h]

theorem access_notClocked {s : State} {p : Port} (hb : s.par.portBase.Legal) (h : (s.block p).clocked = false)
    (r : Reg) : access (regAddress (s.base p) r) 4 s = .refused (.portNotClocked p) := by
  simp [access, State.base, regAddress_aligned hb, decodeAddress_regAddress hb, h]

theorem access_locked {s : State} {p : Port} (hb : s.par.portBase.Legal) (hc : (s.block p).clocked = true)
    (h : (s.block p).locked = true) (r : Reg) :
    access (regAddress (s.base p) r) 4 s = .refused (.portLocked p) := by
  simp [access, State.base, regAddress_aligned hb, decodeAddress_regAddress hb, hc, h]

/-- Settles O22: a read and a write stop where the access they begin with stops. -/
theorem accessesOutsideTheContractStop : Obligations.AccessesOutsideTheContractStop := by
  intro s addr v bytes
  refine ⟨fun hw => access_refused (access_width hw addr s), fun ha => access_refused (access_misaligned ha s),
    fun halign hreg => ?_, ?_⟩
  · simp [memRead, memWrite, access_unmapped halign hreg]
  · rintro p r hb rfl
    exact ⟨fun hc => access_refused (access_notClocked hb hc r),
      fun hc hl => access_refused (access_locked hb hc hl r)⟩

/-! ### Writing one pin -/

/-- The state with the output bits of a port replaced. -/
def State.withOdata (s : State) (p : Port) (o : Half) : State :=
  { s with ports := s.ports.set p { s.block p with odata := o } }

@[simp] theorem State.withOdata_odata (s : State) (p : Port) (o : Half) : ((s.withOdata p o).block p).odata = o := by
  simp [State.withOdata, State.block]

theorem State.withOdata_withOdata (s : State) (p : Port) (o o' : Half) :
    (s.withOdata p o).withOdata p o' = s.withOdata p o' := by
  simp [State.withOdata, State.block]

theorem State.withOdata_outputBit (s : State) (p q : Port) (o : Half) (k : Pin) :
    (s.withOdata p o).outputBit q k = if q = p then o.getLsbD k.val else s.outputBit q k := by
  unfold State.withOdata State.outputBit State.block
  rw [Ports.get_set]
  split <;> rfl

theorem State.withOdata_slotValue (s : State) (p q : Port) (o : Half) (k : Pin) :
    (s.withOdata p o).slotValue q k = s.slotValue q k := by
  unfold State.withOdata State.slotValue State.block
  rw [Ports.get_set]
  split
  · rename_i hq
    rw [hq]
    rfl
  · rfl

theorem State.withOdata_ready {s : State} {p q : Port} (h : Ready s q) (o : Half) : Ready (s.withOdata p o) q := by
  obtain ⟨hb, hclocked, hlocked⟩ := h
  obtain ⟨hc, hl⟩ := premises_set (ps := s.ports) (p := p) (k := { s.block p with odata := o }) rfl rfl q
  exact ⟨hb, hc.trans hclocked, hl.trans hlocked⟩

/-- The output bits of a port after pin `n` is given the bit `b`. -/
def pinWritten (old : Half) (n : Pin) (b : Bool) : Half := afterSetrst .setWins 0 old (pinWord n b)

theorem pinWritten_getLsbD (old : Half) (n k : Pin) (b : Bool) :
    (pinWritten old n b).getLsbD k.val = if k = n then b else old.getLsbD k.val :=
  afterSetrst_pinWord _ _ _ _ _ _

theorem afterSetrst_eq_pinWritten (mode : BsrConflict) (d : Word) (old : Half) (n : Pin) (b : Bool) :
    afterSetrst mode d old (pinWord n b) = pinWritten old n b :=
  half_ext fun k => by rw [afterSetrst_pinWord, pinWritten_getLsbD]

theorem pinWritten_comm (old : Half) {n m : Pin} (h : n ≠ m) (b c : Bool) :
    pinWritten (pinWritten old n b) m c = pinWritten (pinWritten old m c) n b := by
  refine half_ext fun k => ?_
  simp only [pinWritten_getLsbD]
  by_cases hn : k = n
  · rw [if_neg (hn ▸ h), if_pos hn, if_pos hn]
  · rw [if_neg hn, if_neg hn]

theorem drawsAfterSetrst_pinWord (n : Pin) (b : Bool) (s : State) : drawsAfterSetrst (pinWord n b) s = s.draws :=
  if_neg fun hany => hany.2 (pinWord_no_conflict n b)

/-- The word of a pin written to SETRST gives that pin its bit and changes nothing else (rules R17, R67). -/
theorem memWrite_setrst_pinWord {s : State} {p : Port} (h : Ready s p) (n : Pin) (b : Bool) :
    memWrite (regAddress (s.base p) .setrst) 4 (pinWord n b) s =
      .next (s.withOdata p (pinWritten (s.block p).odata n b)) := by
  rw [memWrite_setrst h, afterSetrst_eq_pinWritten, drawsAfterSetrst_pinWord]
  rfl

/-- Two pins of one port written one after the other. -/
theorem memWrite_setrst_two_pins {s : State} {p : Port} (h : Ready s p) (n m : Pin) (b c : Bool) :
    andThen (memWrite (regAddress (s.base p) .setrst) 4 (pinWord n b) s)
        (memWrite (regAddress (s.base p) .setrst) 4 (pinWord m c)) =
      .next (s.withOdata p (pinWritten (pinWritten (s.block p).odata n b) m c)) := by
  have hsecond := memWrite_setrst_pinWord (State.withOdata_ready (p := p) h (pinWritten (s.block p).odata n b)) m c
  rw [State.withOdata_withOdata, State.withOdata_odata] at hsecond
  rw [memWrite_setrst_pinWord h, andThen_next]
  exact hsecond

theorem exists_pinWord {n : Pin} {v : Word} (h : v = 1#32 <<< n.val ∨ v = 1#32 <<< (n.val + 16)) :
    ∃ b, v = pinWord n b :=
  h.elim (fun hset => ⟨true, hset⟩) (fun hrst => ⟨false, hrst⟩)

/-- The bit that a pin's word stands for can be read off the word. -/
theorem bit_of_pinWord (n : Pin) (b : Bool) :
    (pinWord n b = 1#32 <<< n.val → b = true) ∧ (pinWord n b = 1#32 <<< (n.val + 16) → b = false) := by
  cases b with
  | true => exact ⟨fun _ => rfl, fun h => absurd h (pinWord_set_ne_reset n)⟩
  | false => exact ⟨fun h => absurd h.symm (pinWord_set_ne_reset n), fun _ => rfl⟩

/-- Settles O53: each word changes its own pin, and changes of different pins commute. -/
theorem setrstWritesOfDifferentPinsCommute : Obligations.SetrstWritesOfDifferentPinsCommute := by
  intro s p n m v w h hnm hv hw
  obtain ⟨b, rfl⟩ := exists_pinWord hv
  obtain ⟨c, rfl⟩ := exists_pinWord hw
  have hbits (q : Port) (k : Pin) :
      (s.withOdata p (pinWritten (pinWritten (s.block p).odata n b) m c)).outputBit q k =
        if q = p then if k = m then c else if k = n then b else s.outputBit p k else s.outputBit q k := by
    rw [State.withOdata_outputBit, pinWritten_getLsbD, pinWritten_getLsbD]
    rfl
  have hbit_n := hbits p n
  have hbit_m := hbits p m
  rw [if_pos rfl, if_neg hnm, if_pos rfl] at hbit_n
  rw [if_pos rfl, if_pos rfl] at hbit_m
  obtain ⟨hset_n, hrst_n⟩ := bit_of_pinWord n b
  obtain ⟨hset_m, hrst_m⟩ := bit_of_pinWord m c
  refine ⟨_, memWrite_setrst_two_pins h n m b c, ?_, fun he => hbit_n.trans (hset_n he),
    fun he => hbit_n.trans (hrst_n he), fun he => hbit_m.trans (hset_m he), fun he => hbit_m.trans (hrst_m he), ?_, ?_⟩
  · rw [pinWritten_comm _ hnm]
    exact memWrite_setrst_two_pins h m n c b
  · intro q k hn hm
    rw [hbits]
    split
    · rename_i hq
      subst hq
      rw [if_neg fun hk => hm (by rw [hk]), if_neg fun hk => hn (by rw [hk])]
    · rfl
  · rw [State.withOdata_odata]
    rfl

/-! ### SETON and SETOFF -/

/-- A level-set command on an initialised driver, where its word is the word of the pin (rules R111, R112). -/
theorem levelCommand_pinWord {s : State} {p : Port} {n : Pin} {b : Bool} (hi : InitedFor s p n) (h : Ready s p)
    (hu : s.u = 0) : levelCommand (pinWord n b) s =
      .next (((s.withOdata p (pinWritten (s.block p).odata n b)).issue
        ⟨.write, s.base p + 0x10#32, pinWord n b⟩).complete .none) := by
  obtain ⟨hinited, href, -, -⟩ := hi
  simp only [levelCommand, oneMicroStep, hu, if_true, whenInited, hinited, href, busWrite_setrst h,
    afterSetrst_eq_pinWritten, drawsAfterSetrst_pinWord]
  rfl

/-- What a level-set command of a pin shows to the environment (rules R16, R28): the level of that pin, and no other. -/
theorem levelCommand_observed {s : State} {p : Port} {n : Pin} (hi : InitedFor s p n) (h : Ready s p)
    (hu : s.u = 0) (b : Bool) : ∃ t, levelCommand (pinWord n b) s = .next t ∧
      t.levelState p n = (if b then .drivenHigh else .drivenLow) ∧
      (s.slotValue p n = 0x3 → t.electricallyHigh p n = some b) ∧
      ∀ q m, (q, m) ≠ (p, n) → t.levelState q m = s.levelState q m := by
  have hbits (q : Port) (m : Pin) : (s.withOdata p (pinWritten (s.block p).odata n b)).outputBit q m =
      if q = p then if m = n then b else s.outputBit p m else s.outputBit q m := by
    rw [State.withOdata_outputBit, pinWritten_getLsbD]
    rfl
  have hbit := hbits p n
  rw [if_pos rfl, if_pos rfl] at hbit
  refine ⟨_, levelCommand_pinWord hi h hu, ?_, fun hcfg => ?_, fun q m hne => ?_⟩
  · exact congrArg (fun x : Bool => if x then LevelState.drivenHigh else .drivenLow) hbit
  · change State.electricallyHigh (s.withOdata p _) p n = some b
    rw [State.electricallyHigh, State.withOdata_slotValue, if_pos hcfg, hbit]
  · change State.levelState (s.withOdata p _) q m = _
    rw [State.levelState, State.levelState, hbits]
    by_cases hq : q = p
    · subst hq
      have hm : m ≠ n := fun hm => hne (by rw [hm])
      rw [if_pos rfl, if_neg hm]
    · rw [if_neg hq]

/-- Settles O42: SETON is the level-set command with bit 0, SETOFF the one with bit 1. -/
theorem levelStateMachine : Obligations.LevelStateMachine := by
  intro s p n hi h hu
  have ⟨_, _, hoff, hon⟩ := hi
  have hseton : exec .seton s = levelCommand (pinWord n false) s := congrArg (levelCommand · s) hon
  have hsetoff : exec .setoff s = levelCommand (pinWord n true) s := congrArg (levelCommand · s) hoff
  rw [hseton, hsetoff]
  exact ⟨levelCommand_observed hi h hu false, levelCommand_observed hi h hu true⟩

end Sys2Proof.Machine

/-! SUPPORT. The sequencer, the driver's stored values, and the invariant (rules R22 to R25, R29): how a micro-step
moves `cp` and `u`, what it may change of the driver, and that reset establishes and every step keeps the invariant. -/

namespace Sys2Proof.Machine

/-! ### What a bus event of the driver leaves -/

theorem ReadDone.par {s t : State} {addr v : Word} (h : ReadDone s addr v t) : t.par = s.par := by
  obtain ⟨-, d, rfl⟩ := h
  rfl

theorem ReadDone.ports {s t : State} {addr v : Word} (h : ReadDone s addr v t) : t.ports = s.ports := by
  obtain ⟨-, d, rfl⟩ := h
  rfl

theorem ReadDone.drv {s t : State} {addr v : Word} (h : ReadDone s addr v t) : t.drv = s.drv := by
  obtain ⟨-, d, rfl⟩ := h
  rfl

theorem ReadDone.cp {s t : State} {addr v : Word} (h : ReadDone s addr v t) : t.cp = s.cp := by
  obtain ⟨-, d, rfl⟩ := h
  rfl

theorem WriteDone.par {s t : State} {addr v : Word} (h : WriteDone s addr v t) : t.par = s.par := by
  obtain ⟨p, r, k, d, -, rfl, -⟩ := h
  rfl

theorem WriteDone.drv {s t : State} {addr v : Word} (h : WriteDone s addr v t) : t.drv = s.drv := by
  obtain ⟨p, r, k, d, -, rfl, -⟩ := h
  rfl

theorem WriteDone.cp {s t : State} {addr v : Word} (h : WriteDone s addr v t) : t.cp = s.cp := by
  obtain ⟨p, r, k, d, -, rfl, -⟩ := h
  rfl

/-! ### How a micro-step moves the sequencer -/

/-- The two conditions that a checked implementation reports, each with the command that meets it (rule R135). -/
def ReportCause (i : Instr) (s : State) (r : Report) : Prop :=
  (r = .outOfRangePinIndex ∧ ∃ pin, i.pin? = some pin ∧ 15 < pin.toNat) ∨
    (r = .driverNotInitialized ∧ i.needsInit = true ∧ s.drv.inited = false)

/-- The four ways in which a micro-step of the command `i` moves `cp` and `u` (rules R25, R122, R135). -/
inductive SequencerMove (i : Instr) (s t : State) : Prop where
  | advance (hmore : s.u + 1 < i.microSteps) (hcp : t.cp = s.cp) (hu : t.u = s.u + 1)
  | complete (hlast : s.u + 1 = i.microSteps) (hfast : i ≠ .runfast) (hdiag : i ≠ .rundiag) (hcp : t.cp = s.cp + 1)
      (hu : t.u = 0)
  | restart (hlast : s.u + 1 = i.microSteps) (hloop : i = .runfast ∨ i = .rundiag) (hcp : t.cp = s.cp) (hu : t.u = 0)
  | report (r : Report) (hreported : Reported r s t) (hcause : ReportCause i s r)

/-- A command of one micro-step is no loop, so its micro-step completes it. -/
theorem SequencerMove.of_single {i : Instr} {s t : State} (hi : i.microSteps = 1) (hu : s.u = 0)
    (hcp : t.cp = s.cp + 1) (ht : t.u = 0) : SequencerMove i s t :=
  .complete (by omega) (by rintro rfl; cases hi) (by rintro rfl; cases hi) hcp ht

theorem execAt_sequencerMove {port : Byte} {s t : State} (h : execAt port s = .next t) :
    SequencerMove (.atPort port) s t := by
  obtain ⟨p, -, hu, rfl⟩ := execAt_next h
  exact .of_single rfl hu rfl rfl

theorem readCommand_sequencerMove {i : Instr} (hi : i.microSteps = 1) {r : Reg} {port : Byte} {s t : State}
    (h : readCommand r port s = .next t) : SequencerMove i s t := by
  obtain ⟨p, v, s', -, hu, hr, rfl⟩ := readCommand_next h
  exact .of_single hi hu (by rw [State.complete_cp, hr.cp]) rfl

theorem writeCommand_sequencerMove {i : Instr} (hi : i.microSteps = 1) {r : Reg} {port : Byte} {w : Word} {s t : State}
    (h : writeCommand r port w s = .next t) : SequencerMove i s t := by
  obtain ⟨p, s', -, hu, hw, rfl⟩ := writeCommand_next h
  exact .of_single hi hu (by rw [State.complete_cp, hw.cp]) rfl

theorem execCfgpin_sequencerMove {port pin cfg : Byte} {s t : State} (h : execCfgpin port pin cfg s = .next t) :
    SequencerMove (.cfgpin port pin cfg) s t := by
  obtain ⟨p, -, ⟨hpin, hrep⟩ | ⟨n, -, ⟨hu, v, s', hr, rfl⟩ | ⟨hu, c, s', -, hw, rfl⟩⟩⟩ := execCfgpin_next h
  · exact .report _ hrep (.inl ⟨rfl, pin, rfl, hpin⟩)
  · exact .advance (by rw [hu]; exact Nat.one_lt_two) hr.cp (by rw [hu]; rfl)
  · exact .complete (by rw [hu]; rfl) nofun nofun (by rw [State.complete_cp, hw.cp]) rfl

theorem execCfgall_sequencerMove {port cfg : Byte} {s t : State} (h : execCfgall port cfg s = .next t) :
    SequencerMove (.cfgall port cfg) s t := by
  obtain ⟨p, -, hlt, ⟨heven, v, s', hr, rfl⟩ | ⟨hodd, c, s', -, hw, rfl⟩⟩ := execCfgall_next h
  · have hmore : s.u + 1 < 32 := by omega
    exact .advance hmore hr.cp rfl
  · split
    · rename_i hlast
      exact .complete (by rw [hlast]; rfl) nofun nofun (by rw [State.complete_cp, hw.cp]) rfl
    · have hmore : s.u + 1 < 32 := by omega
      exact .advance hmore hw.cp rfl

theorem execInit_sequencerMove {port pin : Byte} {s t : State} (h : execInit port pin s = .next t) :
    SequencerMove (.initPin port pin) s t := by
  obtain ⟨p, -, ⟨hpin, hrep⟩ | ⟨n, -, ⟨hu, v, s', hr, rfl⟩ | ⟨hu, s', hw, rfl⟩⟩⟩ := execInit_next h
  · exact .report _ hrep (.inl ⟨rfl, pin, rfl, hpin⟩)
  · exact .advance (by rw [hu]; exact Nat.one_lt_two) hr.cp (by rw [hu]; rfl)
  · exact .complete (by rw [hu]; rfl) nofun nofun (by rw [State.complete_cp, State.storeMasks_cp, hw.cp]) rfl

theorem levelCommand_sequencerMove {i : Instr} (hi : i.microSteps = 1) (hneeds : i.needsInit = true) {word : Word}
    {s t : State} (h : levelCommand word s = .next t) : SequencerMove i s t := by
  obtain ⟨hu, ⟨hinit, hrep⟩ | ⟨-, s', hw, rfl⟩⟩ := levelCommand_next h
  · exact .report _ hrep (.inr ⟨rfl, hneeds, hinit⟩)
  · exact .of_single hi hu (by rw [State.complete_cp, hw.cp]) rfl

theorem execRunfast_sequencerMove {s t : State} (h : execRunfast s = .next t) : SequencerMove .runfast s t := by
  obtain ⟨hu, ⟨hinit, hrep⟩ | ⟨-, s', hw, rfl⟩⟩ | ⟨hu, s', hw, rfl⟩ := execRunfast_next h
  · exact .report _ hrep (.inr ⟨rfl, rfl, hinit⟩)
  · exact .advance (by rw [hu]; decide) hw.cp (by rw [hu]; rfl)
  · exact .restart (by rw [hu]; rfl) (.inl rfl) hw.cp rfl

theorem execRundiag_sequencerMove {s t : State} (h : execRundiag s = .next t) : SequencerMove .rundiag s t := by
  obtain ⟨hlt, s', hw, rfl⟩ := execRundiag_next h
  split
  · rename_i hlast
    exact .restart (by rw [hlast]; rfl) (.inr rfl) hw.cp rfl
  · have hmore : s.u + 1 < 6 := by omega
    exact .advance hmore hw.cp rfl

theorem exec_sequencerMove {i : Instr} {s t : State} (h : exec i s = .next t) : SequencerMove i s t := by
  cases i with
  | atPort _ => exact execAt_sequencerMove h
  | rdCfglo _ | rdCfghi _ | rdIdata _ | rdOdata _ | rdSetrst _ | rdRstonly _ => exact readCommand_sequencerMove rfl h
  | wrCfglo _ _ | wrCfghi _ _ | wrOdata _ _ | wrSetrst _ _ | wrRstonly _ _ => exact writeCommand_sequencerMove rfl h
  | rdLock _ | wrIdata _ _ | wrLock _ _ => exact absurd h refusedCommand_not_next
  | cfgpin _ _ _ => exact execCfgpin_sequencerMove h
  | cfgall _ _ => exact execCfgall_sequencerMove h
  | initPin _ _ => exact execInit_sequencerMove h
  | seton | setoff => exact levelCommand_sequencerMove rfl rfl h
  | runfast => exact execRunfast_sequencerMove h
  | rundiag => exact execRundiag_sequencerMove h

/-- Settles O15: the four moves are the four cases of the statement. -/
theorem microStepMovesTheSequencer : Obligations.MicroStepMovesTheSequencer := by
  intro i s t h
  cases exec_sequencerMove h with
  | advance hmore hcp hu => exact .inl ⟨hmore, hcp, hu⟩
  | complete hlast hfast hdiag hcp hu => exact .inr (.inl ⟨hlast, hfast, hdiag, hcp, hu⟩)
  | restart hlast hloop hcp hu => exact .inr (.inr (.inl ⟨hlast, hloop, hcp, hu⟩))
  | report r hreported hcause => exact .inr (.inr (.inr ⟨hreported.1, r, hreported.2, hcause⟩))

/-- Settles O13: the fetch finds the command and the decoder the instruction. -/
theorem stepRunsDecodedInstruction : Obligations.StepRunsDecodedInstruction := by
  intro s c i hc hi
  refine ⟨fun hturns => ?_, fun rest hturns => ?_⟩
  all_goals simp [step, takeTurn, driverStep, State.fetch, hturns, hc, hi]

theorem decode_eq_error {c : Command} {e : DecodeError} (h : decode c = .error e) : e = .illegalCommand c.cw := by
  unfold decode at h
  split at h
  · cases h
  · cases h
    rfl

/-- Settles O14: the fetch finds nothing, or a control word that the decoder refuses. -/
theorem stepStopsAtStreamEndAndReservedWords : Obligations.StepStopsAtStreamEndAndReservedWords := by
  intro s hturns
  refine ⟨fun hc => ?_, fun c e hc he => ?_⟩
  · simp [step, takeTurn, driverStep, State.fetch, hturns, hc]
  · obtain rfl := decode_eq_error he
    simp [step, takeTurn, driverStep, State.fetch, hturns, hc, he]

/-! ### The driver's stored reference -/

/-- A micro-step changed nothing of the driver but the latch `drv.t` (rules R22 to R24). -/
def DriverKept (s t : State) : Prop := ∃ v, t.drv = { s.drv with t := v }

theorem DriverKept.of_drv {s t : State} (h : t.drv = s.drv) : DriverKept s t := ⟨s.drv.t, h⟩

theorem Reported.drv {r : Report} {s t : State} (h : Reported r s t) : t.drv = s.drv := by
  obtain ⟨-, rfl⟩ := h
  rfl

theorem ReadDone.latch_driverKept {s s' : State} {addr v : Word} (h : ReadDone s addr v s') (n : Nat) :
    DriverKept s ((s'.latch v).goto n) := ⟨v, by rw [State.goto_drv, State.latch_drv, h.drv]⟩

theorem execCfgpin_driverKept {port pin cfg : Byte} {s t : State} (h : execCfgpin port pin cfg s = .next t) :
    DriverKept s t := by
  obtain ⟨p, -, ⟨-, hrep⟩ | ⟨n, -, ⟨-, v, s', hr, rfl⟩ | ⟨-, c, s', -, hw, rfl⟩⟩⟩ := execCfgpin_next h
  · exact .of_drv hrep.drv
  · exact hr.latch_driverKept _
  · exact .of_drv hw.drv

theorem execCfgall_driverKept {port cfg : Byte} {s t : State} (h : execCfgall port cfg s = .next t) :
    DriverKept s t := by
  obtain ⟨p, -, -, ⟨-, v, s', hr, rfl⟩ | ⟨-, c, s', -, hw, rfl⟩⟩ := execCfgall_next h
  · exact hr.latch_driverKept _
  · split <;> exact .of_drv hw.drv

theorem execAt_drv {port : Byte} {s t : State} (h : execAt port s = .next t) : t.drv = s.drv := by
  obtain ⟨p, -, -, rfl⟩ := execAt_next h
  rfl

theorem readCommand_drv {r : Reg} {port : Byte} {s t : State} (h : readCommand r port s = .next t) :
    t.drv = s.drv := by
  obtain ⟨p, v, s', -, -, hr, rfl⟩ := readCommand_next h
  exact hr.drv

theorem writeCommand_drv {r : Reg} {port : Byte} {w : Word} {s t : State} (h : writeCommand r port w s = .next t) :
    t.drv = s.drv := by
  obtain ⟨p, s', -, -, hw, rfl⟩ := writeCommand_next h
  exact hw.drv

theorem levelCommand_drv {word : Word} {s t : State} (h : levelCommand word s = .next t) : t.drv = s.drv := by
  obtain ⟨-, ⟨-, hrep⟩ | ⟨-, s', hw, rfl⟩⟩ := levelCommand_next h
  · exact hrep.drv
  · exact hw.drv

theorem execRunfast_drv {s t : State} (h : execRunfast s = .next t) : t.drv = s.drv := by
  obtain ⟨-, ⟨-, hrep⟩ | ⟨-, s', hw, rfl⟩⟩ | ⟨-, s', hw, rfl⟩ := execRunfast_next h
  · exact hrep.drv
  · exact hw.drv
  · exact hw.drv

theorem execRundiag_drv {s t : State} (h : execRundiag s = .next t) : t.drv = s.drv := by
  obtain ⟨-, s', hw, rfl⟩ := execRundiag_next h
  exact hw.drv

theorem exec_driverKept {i : Instr} {s t : State} (h : exec i s = .next t)
    (hinit : ∀ port pin, i ≠ .initPin port pin) : DriverKept s t := by
  cases i with
  | atPort _ => exact .of_drv (execAt_drv h)
  | rdCfglo _ | rdCfghi _ | rdIdata _ | rdOdata _ | rdSetrst _ | rdRstonly _ => exact .of_drv (readCommand_drv h)
  | wrCfglo _ _ | wrCfghi _ _ | wrOdata _ _ | wrSetrst _ _ | wrRstonly _ _ => exact .of_drv (writeCommand_drv h)
  | rdLock _ | wrIdata _ _ | wrLock _ _ => exact absurd h refusedCommand_not_next
  | cfgpin _ _ _ => exact execCfgpin_driverKept h
  | cfgall _ _ => exact execCfgall_driverKept h
  | initPin port pin => exact absurd rfl (hinit port pin)
  | seton | setoff => exact .of_drv (levelCommand_drv h)
  | runfast => exact .of_drv (execRunfast_drv h)
  | rundiag => exact .of_drv (execRundiag_drv h)

/-- Settles O18: every command but INIT changes at most the latch. -/
theorem onlyInitWritesTheStoredReference : Obligations.OnlyInitWritesTheStoredReference := by
  intro i s t h hinit
  obtain ⟨v, hdrv⟩ := exec_driverKept h hinit
  rw [hdrv]
  exact ⟨rfl, rfl, rfl, rfl⟩

/-! ### The invariant -/

theorem microSteps_pos (i : Instr) : 0 < i.microSteps := by
  cases i <;> exact Nat.succ_pos _

/-- The current command depends on the stream and on `cp` alone (rule R25). -/
theorem State.current_congr {s t : State} (hstream : t.stream = s.stream) (hcp : t.cp = s.cp) :
    t.current = s.current := by
  unfold State.current State.fetch
  rw [hstream, hcp]

/-- The invariant does not mention the turns. -/
theorem Inv.with_turns {s : State} (h : Inv s) (turns : List Turn) : Inv { s with turns := turns } :=
  ⟨h.bases, h.live, h.driver, h.microStep, h.midInit, h.midFast, h.issued⟩

theorem EnvironmentKept.base {s t : State} (h : EnvironmentKept s t) (p : Port) : t.base p = s.base p :=
  congrArg (fun par => par.portBase.get p) h.1

theorem EnvironmentKept.legal {s t : State} (h : EnvironmentKept s t) (hs : Inv s) : t.par.portBase.Legal := by
  obtain ⟨hpar, -⟩ := h
  rw [hpar]
  exact hs.bases

theorem EnvironmentKept.live {s t : State} (h : EnvironmentKept s t) (hs : Inv s) (p : Port) : Live t p := by
  obtain ⟨-, -, -, hpremises⟩ := h
  obtain ⟨hclocked, hlocked⟩ := hpremises p
  obtain ⟨hc, hl⟩ := hs.live p
  exact ⟨hclocked.trans hc, hlocked.trans hl⟩

theorem IssuesAtMostOne.issued {s t : State} (h : IssuesAtMostOne s t) (hpar : t.par = s.par) (hs : Inv s) :
    ∀ x ∈ t.trace, RegisterWord t.par.portBase x.addr := by
  intro x hx
  rw [hpar]
  obtain htrace | ⟨y, htrace, hy⟩ := h
  · exact hs.issued x (htrace ▸ hx)
  · rw [htrace, List.mem_append, List.mem_singleton] at hx
    rcases hx with hx | rfl
    · exact hs.issued x hx
    · exact hy

/-- The part of the invariant that speaks of the driver's stored values (rules R22, R23). -/
def DriverSound (s : State) : Prop :=
  s.drv.inited = true →
    (∃ p, s.drv.ref = s.base p) ∧ ∃ n : Pin, s.drv.offMask = 1#32 <<< n.val ∧ s.drv.onMask = 1#32 <<< (n.val + 16)

theorem DriverSound.of_kept {s t : State} (h : DriverSound s) (hpar : t.par = s.par) (hdrv : DriverKept s t) :
    DriverSound t := by
  obtain ⟨v, hdrv⟩ := hdrv
  unfold DriverSound State.base
  rw [hpar, hdrv]
  exact h

/-- INIT selects a port at once and stores the masks of a pin at its end (rule R110). -/
theorem execInit_driverSound {port pin : Byte} {s t : State} (hs : Inv s)
    (hcur : s.current = some (.initPin port pin)) (h : execInit port pin s = .next t) : DriverSound t := by
  have hpar : t.par = s.par := (execInit_driverMove h).environmentKept.1
  have hbase (p : Port) : t.base p = s.base p := congrArg (fun par => par.portBase.get p) hpar
  obtain ⟨p, -, ⟨-, hrep⟩ | ⟨n, -, ⟨-, v, s', hr, rfl⟩ | ⟨hu, s', hw, rfl⟩⟩⟩ := execInit_next h
  · exact DriverSound.of_kept hs.driver hpar (.of_drv hrep.drv)
  · have hdrv : s'.drv = { s.drv with ref := s.base p } := hr.drv
    intro hinited
    rw [State.goto_drv, State.latch_drv, hdrv] at hinited ⊢
    obtain ⟨-, hmasks⟩ := hs.driver hinited
    exact ⟨⟨p, (hbase p).symm⟩, hmasks⟩
  · obtain ⟨q, -, href⟩ := hs.midInit port pin hcur hu
    intro _
    rw [State.complete_drv, State.storeMasks_drv, hw.drv]
    exact ⟨⟨q, href.trans (hbase q).symm⟩, n, rfl, rfl⟩

theorem exec_driverSound {i : Instr} {s t : State} (hs : Inv s) (hcur : s.current = some i)
    (h : exec i s = .next t) : DriverSound t := by
  by_cases hinit : ∃ port pin, i = .initPin port pin
  · obtain ⟨port, pin, rfl⟩ := hinit
    exact execInit_driverSound hs hcur h
  · exact DriverSound.of_kept hs.driver (exec_driverMove h).environmentKept.1
      (exec_driverKept h fun port pin hi => hinit ⟨port, pin, hi⟩)

/-- After a micro-step the machine is at micro-step 0, or further on in the same command. -/
theorem exec_goes_on_or_restarts {i : Instr} {s t : State} (hcur : s.current = some i) (h : exec i s = .next t) :
    t.u = 0 ∨ (t.u = s.u + 1 ∧ t.u < i.microSteps ∧ t.current = some i) := by
  have hstream : t.stream = s.stream := (exec_driverMove h).environmentKept.2.1
  cases exec_sequencerMove h with
  | advance hmore hcp hu => exact .inr ⟨hu, hu ▸ hmore, (State.current_congr hstream hcp).trans hcur⟩
  | complete _ _ _ _ hu => exact .inl hu
  | restart _ _ _ hu => exact .inl hu
  | report r hreported _ => exact .inl (congrArg State.u hreported.2)

/-- A second micro-step is reached only from the first micro-step of the same command. -/
theorem exec_reaches_second {i j : Instr} {s t : State} (hcur : s.current = some i) (h : exec i s = .next t)
    (ht : t.current = some j) (hu : t.u = 1) : s.u = 0 ∧ j = i := by
  obtain h0 | ⟨hnext, -, hcur'⟩ := exec_goes_on_or_restarts hcur h
  · omega
  · exact ⟨by omega, Option.some.inj (ht.symm.trans hcur')⟩

/-- The first micro-step of INIT selects the port that the command names. -/
theorem execInit_selects {port pin : Byte} {s t : State} (h : execInit port pin s = .next t) (hs : s.u = 0)
    (ht : t.u = 1) : ∃ p : Port, port = p.code ∧ t.drv.ref = t.base p := by
  have hpar : t.par = s.par := (execInit_driverMove h).environmentKept.1
  obtain ⟨p, hp, ⟨-, -, rfl⟩ | ⟨n, -, ⟨-, v, s', hr, rfl⟩ | ⟨hu, -⟩⟩⟩ := execInit_next h
  · cases ht
  · refine ⟨p, hp, ?_⟩
    have hdrv : s'.drv = { s.drv with ref := s.base p } := hr.drv
    rw [State.goto_drv, State.latch_drv, hdrv]
    exact congrArg (fun par => par.portBase.get p) hpar.symm
  · omega

/-- The first micro-step of RUNFAST goes on only on an initialised driver. -/
theorem execRunfast_checked {s t : State} (h : execRunfast s = .next t) (hs : s.u = 0) (ht : t.u = 1) :
    t.drv.inited = true := by
  rw [execRunfast_drv h]
  obtain ⟨-, ⟨-, -, rfl⟩ | ⟨hinited, -⟩⟩ | ⟨hu, -⟩ := execRunfast_next h
  · cases ht
  · exact hinited
  · omega

/-- A micro-step of the current command keeps the invariant. -/
theorem exec_keeps_inv {i : Instr} {s t : State} (hs : Inv s) (hcur : s.current = some i) (h : exec i s = .next t) :
    Inv t where
  bases := (exec_driverMove h).environmentKept.legal hs
  live := (exec_driverMove h).environmentKept.live hs
  driver := exec_driverSound hs hcur h
  microStep j hj := by
    obtain h0 | ⟨-, hlt, hcur'⟩ := exec_goes_on_or_restarts hcur h
    · rw [h0]
      exact microSteps_pos j
    · obtain rfl := Option.some.inj (hj.symm.trans hcur')
      exact hlt
  midInit port pin hj hu := by
    obtain ⟨hs0, rfl⟩ := exec_reaches_second hcur h hj hu
    exact execInit_selects h hs0 hu
  midFast hj hu := by
    obtain ⟨hs0, rfl⟩ := exec_reaches_second hcur h hj hu
    exact execRunfast_checked h hs0 hu
  issued := (exec_driverMove h).issuesAtMostOne.issued (exec_driverMove h).environmentKept.1 hs

/-- An event of the other agent keeps the invariant: it touches neither the driver nor the premises. -/
theorem otherEvent_keeps_inv {e : OtherEvent} {s t : State} (hs : Inv s) (h : otherEvent e s = .next t) : Inv t := by
  have hlegal := (otherEvent_environmentKept h).legal hs
  have hlive := (otherEvent_environmentKept h).live hs
  obtain ⟨d, v, rfl⟩ | ⟨p, k, d, rfl, -⟩ := otherEvent_next h
  · exact ⟨hlegal, hlive, hs.driver, hs.microStep, hs.midInit, hs.midFast, hs.issued⟩
  · exact ⟨hlegal, hlive, hs.driver, hs.microStep, hs.midInit, hs.midFast, hs.issued⟩

/-- Settles O57: both kinds of step keep the invariant. -/
theorem stepKeepsTheInvariant : Obligations.StepKeepsTheInvariant := by
  intro s t hs h
  have hs' : Inv { s with turns := s.turns.tail } := hs.with_turns _
  obtain ⟨i, hcur, hexec⟩ | ⟨e, rest, -, hother⟩ := step_next h
  · exact exec_keeps_inv hs' hcur hexec
  · exact otherEvent_keeps_inv hs' hother

theorem resetWith_live (par : Params) (p : Port) : Live (resetWith par) p := by
  cases p <;> exact ⟨rfl, rfl⟩

/-- At reset the stream and the trace are empty and the driver is not initialised. -/
theorem resetWith_inv {par : Params} (h : par.portBase.Legal) : Inv (resetWith par) where
  bases := h
  live := resetWith_live par
  driver := nofun
  microStep := nofun
  midInit := nofun
  midFast := nofun
  issued := nofun

/-- Settles O56: the suggested bases are legal. -/
theorem invariantAtReset : Obligations.InvariantAtReset :=
  ⟨resetWith_inv (by decide), fun _ => resetWith_inv⟩

/-- Settles O55: reset writes each block with the values of rule R29. -/
theorem resetValues : Obligations.ResetValues := by
  refine ⟨rfl, fun par => ⟨fun p => ?_, rfl, rfl, rfl⟩⟩
  cases p <;> exact ⟨rfl, rfl, rfl, rfl⟩

end Sys2Proof.Machine

/-! SUPPORT. The frame of the commands (rules R10, R12): in which word of the address space each command stores, and
what the read commands of the configuration registers answer. -/

namespace Sys2Proof.Machine

/-! ### What a micro-step stores -/

theorem portCode_injective {p q : Port} (h : p.code = q.code) : p = q := by
  have hp := portOf_code p
  rw [h, portOf_code] at hp
  exact (Option.some.inj hp).symm

theorem pin_of_operand {n m : Pin} (h : BitVec.ofNat 8 n.val = BitVec.ofNat 8 m.val) : n = m := by
  have hn := pinOf_val n
  rw [h, pinOf_val] at hn
  exact (Option.some.inj hn).symm

/-- An operand above 15 names no pin (rule R71). -/
theorem operand_ne_pin {pin : Byte} (h : 15 < pin.toNat) (n : Pin) : pin ≠ BitVec.ofNat 8 n.val := by
  rintro rfl
  have hsome := pinOf_val n
  rw [pinOf_eq_none h] at hsome
  cases hsome

/-- The register whose stored word a write to a register may change (rules R12, R17, R18): ODATA for SETRST and
RSTONLY, itself for the others. -/
def storeTarget : Reg → Reg
  | .setrst | .rstonly => .odata
  | .cfglo => .cfglo
  | .cfghi => .cfghi
  | .idata => .idata
  | .odata => .odata
  | .lock => .lock

theorem storeTarget_slotReg (n : Pin) : storeTarget (slotReg n) = slotReg n := by
  unfold slotReg
  split <;> rfl

/-- The block of a port after a store, `new`, differs from `old` at most in the stored word of `r`. -/
def StoresOnly (r : Reg) (old new : PortBlock) : Prop := ∀ r', r' ≠ r → storedReg new r' = storedReg old r'

/-- The micro-step stored in at most one word: that of register `r` of the port at `ref`, or nothing at all. -/
def StoresAt (ref : Word) (r : Reg) (s t : State) : Prop :=
  t.par = s.par ∧ (t.ports = s.ports ∨ ∃ v s', WriteDone s (regAddress ref r) v s' ∧ t.ports = s'.ports)

theorem StoresAt.of_ports {ref : Word} {r : Reg} {s t : State} (hpar : t.par = s.par) (h : t.ports = s.ports) :
    StoresAt ref r s t := ⟨hpar, .inl h⟩

theorem WriteDone.storesAt {ref v : Word} {r : Reg} {s s' t : State} (h : WriteDone s (regAddress ref r) v s')
    (hpar : t.par = s'.par) (hports : t.ports = s'.ports) : StoresAt ref r s t :=
  ⟨hpar.trans h.par, .inr ⟨v, s', h, hports⟩⟩

theorem Reported.storesAt {c : Report} {s t : State} (h : Reported c s t) (ref : Word) (r : Reg) :
    StoresAt ref r s t := by
  obtain ⟨-, rfl⟩ := h
  exact .of_ports rfl rfl

/-- A write at the address of a register of a port replaces the block of that port (decision D26). -/
theorem WriteDone.at_register {s t : State} {p : Port} {r : Reg} {v : Word} (hb : s.par.portBase.Legal)
    (h : WriteDone s (regAddress (s.base p) r) v t) :
    ∃ k, t.ports = s.ports.set p k ∧ StoresOnly (storeTarget r) (s.block p) k := by
  obtain ⟨q, r', k, d, haddr, rfl, -, -, hlo, hhi, hodata⟩ := h
  have hsame : (p, r) = (q, r') := by
    have hsel := decodeAddress_regAddress hb p r
    rw [show regAddress (s.par.portBase.get p) r = regAddress (s.par.portBase.get q) r' from haddr,
      decodeAddress_regAddress hb q r'] at hsel
    exact (Option.some.inj hsel).symm
  cases hsame
  refine ⟨k, rfl, fun x hx => ?_⟩
  cases x with
  | cfglo => exact congrArg some (hlo fun h => hx (by rw [h]; rfl))
  | cfghi => exact congrArg some (hhi fun h => hx (by rw [h]; rfl))
  | odata =>
    exact congrArg (fun o : Half => some (o.setWidth 32)) (hodata (fun h => hx (by rw [h]; rfl))
      (fun h => hx (by rw [h]; rfl)) fun h => hx (by rw [h]; rfl))
  | idata => rfl
  | setrst => rfl
  | rstonly => rfl
  | lock => rfl

/-- A store in one port leaves every other port (rule R10). -/
theorem StoresAt.block_other {s t : State} {p q : Port} {r : Reg} (hb : s.par.portBase.Legal)
    (h : StoresAt (s.base p) r s t) (hq : q ≠ p) : t.block q = s.block q := by
  unfold State.block
  obtain ⟨-, hports | ⟨v, s', hw, hports⟩⟩ := h
  · rw [hports]
  · obtain ⟨k, hset, -⟩ := hw.at_register hb
    rw [hports, hset, Ports.get_set_other _ _ hq]

/-- A store leaves every word of the address space but the one it stores to (rule R12). -/
theorem StoresAt.storedWord_other {s t : State} {p : Port} {r : Reg} {addr : Word} (hb : s.par.portBase.Legal)
    (h : StoresAt (s.base p) r s t) (haddr : addr ≠ regAddress (s.base p) (storeTarget r)) :
    t.storedWord addr = s.storedWord addr := by
  have hpar : t.par = s.par := h.1
  unfold State.storedWord
  rw [hpar]
  cases hd : decodeAddress s.par.portBase addr with
  | none => rfl
  | some a =>
    obtain ⟨q, x⟩ := a
    by_cases hq : q = p
    · subst hq
      have hx : x ≠ storeTarget r := fun hx => haddr (hx ▸ decodeAddress_eq_some hd)
      change storedReg (t.ports.get q) x = storedReg (s.ports.get q) x
      obtain ⟨-, hports | ⟨v, s', hw, hports⟩⟩ := h
      · rw [hports]
      · obtain ⟨k, hset, hk⟩ := hw.at_register hb
        rw [hports, hset, Ports.get_set_same]
        exact hk x hx
    · exact congrArg (storedReg · x) (h.block_other hb hq)

theorem execAt_ports {port : Byte} {s t : State} (h : execAt port s = .next t) :
    t.par = s.par ∧ t.ports = s.ports := by
  obtain ⟨p, -, -, rfl⟩ := execAt_next h
  exact ⟨rfl, rfl⟩

theorem readCommand_ports {r : Reg} {port : Byte} {s t : State} (h : readCommand r port s = .next t) :
    t.par = s.par ∧ t.ports = s.ports := by
  obtain ⟨p, v, s', -, -, hr, rfl⟩ := readCommand_next h
  exact ⟨hr.par, hr.ports⟩

theorem State.storedWord_congr {s t : State} (h : t.par = s.par ∧ t.ports = s.ports) (addr : Word) :
    t.storedWord addr = s.storedWord addr := by
  obtain ⟨hpar, hports⟩ := h
  unfold State.storedWord State.block
  rw [hpar, hports]

theorem writeCommand_storesAt {r : Reg} {p : Port} {w : Word} {s t : State}
    (h : writeCommand r p.code w s = .next t) : StoresAt (s.base p) r s t := by
  obtain ⟨q, s', hq, -, hw, rfl⟩ := writeCommand_next h
  obtain rfl := portCode_injective hq
  exact hw.storesAt rfl rfl

/-- CFGPIN stores to the configuration register of its pin; a pin above 15 is reported and stores nothing. -/
theorem execCfgpin_storesAt {p : Port} {pin cfg : Byte} {s t : State} (h : execCfgpin p.code pin cfg s = .next t) :
    ∃ m, StoresAt (s.base p) (slotReg m) s t ∧ ∀ n : Pin, pin = BitVec.ofNat 8 n.val → n = m := by
  obtain ⟨q, hq, ⟨hpin, hrep⟩ | ⟨m, hm, hcase⟩⟩ := execCfgpin_next h
  · exact ⟨0, hrep.storesAt _ _, fun n hn => absurd hn (operand_ne_pin hpin n)⟩
  · obtain rfl := portCode_injective hq
    refine ⟨m, ?_, fun n hn => pin_of_operand (hn.symm.trans hm)⟩
    obtain ⟨-, v, s', hr, rfl⟩ | ⟨-, c, s', -, hw, rfl⟩ := hcase
    · exact .of_ports hr.par hr.ports
    · exact hw.storesAt rfl rfl

theorem execCfgall_storesAt {p : Port} {cfg : Byte} {s t : State} (h : execCfgall p.code cfg s = .next t) :
    StoresAt (s.base p) (slotReg (passPin s.u)) s t := by
  obtain ⟨q, hq, -, ⟨-, v, s', hr, rfl⟩ | ⟨-, c, s', -, hw, rfl⟩⟩ := execCfgall_next h
  · exact .of_ports hr.par hr.ports
  · obtain rfl := portCode_injective hq
    split <;> exact hw.storesAt rfl rfl

/-- INIT stores to the configuration register of its pin in the block that the stored reference points at. -/
theorem execInit_storesAt {p : Port} {pin : Byte} {s t : State} (href : s.u = 1 → s.drv.ref = s.base p)
    (h : execInit p.code pin s = .next t) :
    ∃ m, StoresAt (s.base p) (slotReg m) s t ∧ ∀ n : Pin, pin = BitVec.ofNat 8 n.val → n = m := by
  obtain ⟨q, hq, ⟨hpin, hrep⟩ | ⟨m, hm, hcase⟩⟩ := execInit_next h
  · exact ⟨0, hrep.storesAt _ _, fun n hn => absurd hn (operand_ne_pin hpin n)⟩
  · refine ⟨m, ?_, fun n hn => pin_of_operand (hn.symm.trans hm)⟩
    obtain ⟨-, v, s', hr, rfl⟩ | ⟨hu, s', hw, rfl⟩ := hcase
    · exact .of_ports hr.par hr.ports
    · rw [href hu] at hw
      exact hw.storesAt rfl rfl

theorem levelCommand_storesAt {word : Word} {s t : State} (h : levelCommand word s = .next t) :
    StoresAt s.drv.ref .setrst s t := by
  obtain ⟨-, ⟨-, hrep⟩ | ⟨-, s', hw, rfl⟩⟩ := levelCommand_next h
  · exact hrep.storesAt _ _
  · exact hw.storesAt rfl rfl

/-- RUNFAST stores to ODATA of the selected port, through RSTONLY or through SETRST. -/
theorem execRunfast_storesAt {s t : State} (h : execRunfast s = .next t) :
    ∃ r, storeTarget r = .odata ∧ StoresAt s.drv.ref r s t := by
  obtain ⟨-, ⟨-, hrep⟩ | ⟨-, s', hw, rfl⟩⟩ | ⟨-, s', hw, rfl⟩ := execRunfast_next h
  · exact ⟨.rstonly, rfl, hrep.storesAt _ _⟩
  · exact ⟨.rstonly, rfl, hw.storesAt rfl rfl⟩
  · exact ⟨.setrst, rfl, hw.storesAt rfl rfl⟩

/-- RUNDIAG stores to ODATA of the port of its micro-step, through RSTONLY or through SETRST. -/
theorem execRundiag_storesAt {s t : State} (h : execRundiag s = .next t) :
    ∃ r, storeTarget r = .odata ∧ StoresAt (s.base (diagPort s)) r s t := by
  obtain ⟨-, s', hw, rfl⟩ := execRundiag_next h
  refine ⟨_, ?_, hw.storesAt rfl rfl⟩
  split <;> rfl

/-- The store of a command that names a port is at a register of that port. -/
theorem exec_storesAt_named_port {i : Instr} {s t : State} {p : Port} (hport : i.port? = some p.code)
    (hinit : ∀ port pin, i = .initPin port pin → s.u = 1 → s.drv.ref = s.base p) (h : exec i s = .next t) :
    ∃ r, StoresAt (s.base p) r s t := by
  cases i with
  | atPort _ =>
    obtain ⟨hpar, hports⟩ := execAt_ports h
    exact ⟨.cfglo, .of_ports hpar hports⟩
  | rdCfglo _ | rdCfghi _ | rdIdata _ | rdOdata _ | rdSetrst _ | rdRstonly _ =>
    obtain ⟨hpar, hports⟩ := readCommand_ports h
    exact ⟨.cfglo, .of_ports hpar hports⟩
  | wrCfglo _ _ | wrCfghi _ _ | wrOdata _ _ | wrSetrst _ _ | wrRstonly _ _ =>
    obtain rfl := Option.some.inj hport
    exact ⟨_, writeCommand_storesAt h⟩
  | rdLock _ | wrIdata _ _ | wrLock _ _ => exact absurd h refusedCommand_not_next
  | cfgpin _ _ _ =>
    obtain rfl := Option.some.inj hport
    obtain ⟨m, hm, -⟩ := execCfgpin_storesAt h
    exact ⟨_, hm⟩
  | cfgall _ _ =>
    obtain rfl := Option.some.inj hport
    exact ⟨_, execCfgall_storesAt h⟩
  | initPin port pin =>
    obtain rfl := Option.some.inj hport
    obtain ⟨m, hm, -⟩ := execInit_storesAt (hinit _ pin rfl) h
    exact ⟨_, hm⟩
  | seton | setoff | runfast | rundiag => cases hport

/-- Settles O23: a store at a register of the named port is in the block of that port. -/
theorem portsAreIndependent : Obligations.PortsAreIndependent := by
  intro i s t p q hport hq hinit hb h
  obtain ⟨r, hr⟩ := exec_storesAt_named_port hport hinit h
  exact hr.block_other hb hq

/-- Settles O31: each command stores at the register of its clause, so every other word stays. -/
theorem storesChangeOneWord : Obligations.StoresChangeOneWord := by
  intro s t p n w addr cfg hb
  have hslot {m : Pin} (hm : StoresAt (s.base p) (slotReg m) s t) (hne : addr ≠ slotAddress (s.base p) m) :
      t.storedWord addr = s.storedWord addr :=
    hm.storedWord_other hb (by rw [storeTarget_slotReg]; exact hne)
  have hdata {q : Port} {r : Reg} (htarget : storeTarget r = .odata) (hr : StoresAt (s.base q) r s t)
      (hne : addr ≠ s.base q + 0x0C#32) : t.storedWord addr = s.storedWord addr :=
    hr.storedWord_other hb (by rw [htarget]; exact hne)
  refine ⟨fun h => State.storedWord_congr (execAt_ports h) addr, ?_,
    fun h hne => (writeCommand_storesAt h).storedWord_other hb hne,
    fun h hne => (writeCommand_storesAt h).storedWord_other hb hne, ?_, fun h hne => ?_,
    fun h hne => hslot (execCfgall_storesAt h) hne, fun href h hne => ?_, fun href h hne => ?_, fun h hne => ?_⟩
  · rintro (h | h | h | h | h | h) <;> exact State.storedWord_congr (readCommand_ports h) addr
  · rintro (h | h | h) hne <;> exact hdata rfl (writeCommand_storesAt h) hne
  · obtain ⟨m, hm, hpin⟩ := execCfgpin_storesAt h
    obtain rfl := hpin n rfl
    exact hslot hm hne
  · obtain ⟨m, hm, hpin⟩ := execInit_storesAt (fun _ => href) h
    obtain rfl := hpin n rfl
    exact hslot hm hne
  · obtain h | h | h := h
    · exact hdata rfl (href ▸ levelCommand_storesAt h) hne
    · exact hdata rfl (href ▸ levelCommand_storesAt h) hne
    · obtain ⟨r, htarget, hr⟩ := execRunfast_storesAt h
      exact hdata htarget (href ▸ hr) hne
  · obtain ⟨r, htarget, hr⟩ := execRundiag_storesAt h
    exact hdata htarget hr hne

/-! ### RD.CFGLO and RD.CFGHI -/

/-- A control word whose `cfg` field is zero, with its port field set apart (rule R70). -/
theorem controlWord_eq_or_port (op port sel : Byte) :
    controlWord op port sel 0 = (op.setWidth 32 <<< 24 ||| sel.setWidth 32 <<< 8) ||| port.setWidth 32 <<< 16 := by
  apply BitVec.eq_of_getLsbD_eq
  intro i hi
  have hbeyond (x : Byte) (k : Nat) (hk : 8 ≤ k) : x.getLsbD k = false := BitVec.getLsbD_of_ge x k hk
  rw [controlWord_getLsbD]
  simp only [BitVec.getLsbD_or, BitVec.getLsbD_shiftLeft, BitVec.getLsbD_setWidth, hi, decide_true, Bool.true_and]
  rcases (by omega : i < 8 ∨ (8 ≤ i ∧ i < 16) ∨ (16 ≤ i ∧ i < 24) ∨ 24 ≤ i) with h | ⟨h, h'⟩ | ⟨h, h'⟩ | h
  · simp [h, show i < 24 by omega, show i < 16 by omega]
  · simp [h', show ¬ i < 8 by omega, show i < 24 by omega, show i - 8 < 32 by omega]
  · simp [h', hbeyond sel (i - 8) (by omega), show ¬ i < 8 by omega, show ¬ i < 16 by omega, show i - 16 < 32 by omega]
  · simp [hbeyond sel (i - 8) (by omega), hbeyond port (i - 16) (by omega), show ¬ i < 8 by omega,
      show ¬ i < 16 by omega, show ¬ i < 24 by omega, show i - 24 < 32 by omega]

/-- The decoder reads the four fields that the control word is made of (rule R70). -/
theorem decode_controlWord {op port sel cfg : Byte} {w : Word} {i : Instr}
    (h : decodeFields op port sel cfg w = some i) : decode ⟨controlWord op port sel cfg, w⟩ = .ok i := by
  simp only [decode, opField_controlWord, portField_controlWord, selField_controlWord, cfgField_controlWord, h]

/-- The control words of RD.CFGLO and RD.CFGHI (rule R72, table rows). -/
theorem decode_rdConfig (port : Byte) (w : Word) :
    decode ⟨0x02000000#32 ||| port.setWidth 32 <<< 16, w⟩ = .ok (.rdCfglo port) ∧
    decode ⟨0x02000100#32 ||| port.setWidth 32 <<< 16, w⟩ = .ok (.rdCfghi port) := by
  have hlo := controlWord_eq_or_port 2 port 0
  have hhi := controlWord_eq_or_port 2 port 1
  refine ⟨?_, ?_⟩
  · rw [show 0x02000000#32 ||| port.setWidth 32 <<< 16 = controlWord 2 port 0 0 from hlo.symm]
    exact decode_controlWord rfl
  · rw [show 0x02000100#32 ||| port.setWidth 32 <<< 16 = controlWord 2 port 1 0 from hhi.symm]
    exact decode_controlWord rfl

/-- A read command of a register whose read draws nothing, at a port that meets the premises. -/
theorem readCommand_ready {s : State} {p : Port} {r : Reg} {v : Word} (h : Ready s p) (hu : s.u = 0)
    (hread : readReg p r s = .next (v, s)) : readCommand r p.code s =
      .next ((s.issue ⟨.read, regAddress (s.base p) r, v⟩).complete (.value v)) := by
  simp only [readCommand, oneMicroStep, hu, if_true, withPort_code, busRead_ready h, hread, andThen_next]

theorem readCommand_illegal {s : State} {port : Byte} (hu : s.u = 0) (h : 2 < port.toNat) (r : Reg) :
    readCommand r port s = .fault (.invalidBase port) := by
  simp only [readCommand, oneMicroStep, hu, if_true, withPort_illegal h]

/-- Settles O26: the two commands are the read command of their register, which answers the stored word. -/
theorem readsOfConfigurationRegisters : Obligations.ReadsOfConfigurationRegisters := by
  refine ⟨decode_rdConfig, fun s hu => ⟨fun p h => ?_, fun port hport => ?_⟩, fun par p hb => ?_⟩
  · exact ⟨readCommand_ready (r := .cfglo) h hu rfl, readCommand_ready (r := .cfghi) h hu rfl⟩
  · exact ⟨readCommand_illegal hu hport .cfglo, readCommand_illegal hu hport .cfghi⟩
  · refine ⟨_, readCommand_ready (s := resetWith par) (r := .cfglo) ⟨hb, resetWith_live par p⟩ rfl rfl, ?_⟩
    cases p <;> rfl

end Sys2Proof.Machine

/-! SUPPORT. The bus between two agents (rules R48, R49, R51): a word written twice, an event of the other agent, and a
write of the other agent between the read and the write of a CFGPIN. -/

namespace Sys2Proof.Machine

/-! ### A word written twice -/

/-- An access depends on the parameters and on the premises of the ports alone (rules R21, R41, R151). -/
theorem EnvironmentKept.access {s t : State} (h : EnvironmentKept s t) (addr : Word) (n : Nat) :
    access addr n t = access addr n s := by
  obtain ⟨hpar, -, -, hpremises⟩ := h
  unfold Machine.access
  simp only [hpar, fun p => (hpremises p).1, fun p => (hpremises p).2]

theorem memWrite_environmentKept {addr v : Word} {s t : State} (h : memWrite addr 4 v s = .next t) :
    EnvironmentKept s t :=
  otherEvent_environmentKept (e := .write addr v) h

/-- A SETRST word gives each bit a value that does not depend on the old one, or keeps it, so with one and the same free
value a second write changes nothing (rules R17, R48). -/
theorem afterSetrst_idempotent (mode : BsrConflict) (d : Word) (old : Half) (v : Word) :
    afterSetrst mode d (afterSetrst mode d old v) v = afterSetrst mode d old v := by
  refine half_ext fun n => ?_
  simp only [afterSetrst_getLsbD]
  cases v.getLsbD n.val <;> cases v.getLsbD (n.val + 16) <;> simp

theorem afterRstonly_idempotent (old : Half) (v : Word) : afterRstonly (afterRstonly old v) v = afterRstonly old v := by
  unfold afterRstonly
  rw [BitVec.and_assoc, BitVec.and_self]

/-- Two blocks put in one place, one after the other. -/
theorem State.setBlock_setBlock (s : State) (p : Port) (k l : PortBlock) :
    (s.setBlock p k).setBlock p l = s.setBlock p l := by
  simp [State.setBlock]

/-- Where rule R48 claims anything of a SETRST write, the write leaves no bit open: it draws no free value. -/
theorem writeSetrst_eq_withOdata {v : Word} {s : State}
    (hopen : s.par.bsrConflict ≠ .any ∨ lowHalf v &&& highHalf v = 0) (p : Port) :
    writeSetrst p v s = s.withOdata p
      (afterSetrst s.par.bsrConflict (Config.draw32 (.conflict p) s.draws) (s.block p).odata v) := by
  have hdraws : drawsAfterSetrst v s = s.draws :=
    if_neg fun ⟨hany, hbits⟩ => hopen.elim (absurd hany) (absurd · hbits)
  rw [writeSetrst_eq, hdraws]
  rfl

theorem writeSetrst_idempotent {v : Word} {s : State}
    (hopen : s.par.bsrConflict ≠ .any ∨ lowHalf v &&& highHalf v = 0) (p : Port) :
    writeSetrst p v (writeSetrst p v s) = writeSetrst p v s := by
  rw [writeSetrst_eq_withOdata hopen, writeSetrst_eq_withOdata (s := s.withOdata p _) hopen,
    State.withOdata_withOdata, State.withOdata_odata]
  exact congrArg (s.withOdata p) (afterSetrst_idempotent _ _ _ _)

/-- Rule R48 at the register. -/
theorem writeReg_idempotent {p : Port} {r : Reg} {v : Word} {s t : State}
    (hopen : s.par.bsrConflict ≠ .any ∨ lowHalf v &&& highHalf v = 0) (h : writeReg p r v s = .next t) :
    writeReg p r v t = .next t := by
  cases r with
  | cfglo | cfghi | odata =>
    cases h
    simp only [writeReg, State.setBlock_setBlock, State.setBlock_block_same]
  | setrst =>
    cases h
    exact congrArg Host.Outcome.next (writeSetrst_idempotent hopen p)
  | rstonly =>
    cases h
    simp only [writeReg, writeRstonly, State.setBlock_setBlock, State.setBlock_block_same, afterRstonly_idempotent]
  | idata | lock => cases h

/-- Settles O24: the second access selects the same register, whose write rule is idempotent. -/
theorem repeatedWriteChangesNothing : Obligations.RepeatedWriteChangesNothing := by
  intro s t addr v hopen h
  have haccess := (memWrite_environmentKept h).access addr 4
  obtain ⟨⟨p, r⟩, hselect, hwrite⟩ := andThen_eq_next h
  rw [memWrite, haccess, hselect, andThen_next]
  exact writeReg_idempotent hopen hwrite

/-! ### An event of the other agent -/

/-- The state with other turns still to come. -/
def State.withTurns (s : State) (turns : List Turn) : State := { s with turns := turns }

theorem step_of_other_turn {s : State} {e : OtherEvent} {rest : List Turn} (h : s.turns = .other e :: rest) :
    step s = otherEvent e (s.withTurns rest) := by
  simp only [step, takeTurn, h, State.withTurns]

/-- Settles O54: the event touches its own latch or the stored registers of one port, and the turn is used up. -/
theorem otherAgentLeavesTheDriver : Obligations.OtherAgentLeavesTheDriver := by
  intro s t e rest hturns h
  rw [step_of_other_turn hturns] at h
  obtain ⟨d, v, rfl⟩ | ⟨p, k, d, rfl, -⟩ := otherEvent_next h
  · exact ⟨rfl, rfl, rfl, rfl, rfl, rfl⟩
  · exact ⟨rfl, rfl, rfl, rfl, rfl, rfl⟩

/-! ### The configuration register of a pin -/

/-- A block with the configuration register of pin `n` replaced (rules R13, R14, R65). -/
def PortBlock.withSlotWord (k : PortBlock) (n : Pin) (w : Word) : PortBlock :=
  if n.val < 8 then { k with cfglo := w } else { k with cfghi := w }

theorem PortBlock.withSlotWord_premises (k : PortBlock) (n : Pin) (w : Word) :
    (k.withSlotWord n w).locked = k.locked ∧ (k.withSlotWord n w).clocked = k.clocked := by
  unfold withSlotWord
  split <;> exact ⟨rfl, rfl⟩

theorem PortBlock.withSlotWord_withSlotWord (k : PortBlock) (n : Pin) (w w' : Word) :
    (k.withSlotWord n w).withSlotWord n w' = k.withSlotWord n w' := by
  unfold withSlotWord
  split <;> rfl

/-- The pins whose slots are in the same register read the new word. -/
theorem slotWord_withSlotWord (k : PortBlock) (n m : Pin) (w : Word) :
    slotWord (k.withSlotWord n w) m = if slotReg m = slotReg n then w else slotWord k m := by
  unfold slotWord PortBlock.withSlotWord slotReg
  by_cases hn : n.val < 8 <;> by_cases hm : m.val < 8 <;> simp [hn, hm]

/-- The state with the configuration register of pin `n` of a port replaced. -/
def State.withSlotWord (s : State) (p : Port) (n : Pin) (w : Word) : State :=
  s.setBlock p ((s.block p).withSlotWord n w)

theorem State.withSlotWord_ready {s : State} {q : Port} (h : Ready s q) (p : Port) (n : Pin) (w : Word) :
    Ready (s.withSlotWord p n w) q := by
  obtain ⟨hb, hclocked, hlocked⟩ := h
  obtain ⟨hl, hc⟩ := PortBlock.withSlotWord_premises (s.block p) n w
  obtain ⟨hc', hl'⟩ := premises_set hl hc q
  exact ⟨hb, hc'.trans hclocked, hl'.trans hlocked⟩

/-- The second of two words written to one register is the one that stays. -/
theorem State.withSlotWord_withSlotWord (s : State) (p : Port) (n : Pin) (w w' : Word) :
    (s.withSlotWord p n w).withSlotWord p n w' = s.withSlotWord p n w' := by
  unfold State.withSlotWord
  rw [State.setBlock_setBlock, State.setBlock_block_same, PortBlock.withSlotWord_withSlotWord]

theorem readReg_slotReg (p : Port) (n : Pin) (s : State) :
    readReg p (slotReg n) s = .next (slotWord (s.block p) n, s) := by
  unfold slotReg slotWord
  split <;> rfl

theorem storedReg_slotReg (k : PortBlock) (n : Pin) : storedReg k (slotReg n) = some (slotWord k n) := by
  unfold slotReg slotWord
  split <;> rfl

/-- Pins with their slots in one register share its word. -/
theorem slotWord_congr {n m : Pin} (h : slotReg m = slotReg n) (k : PortBlock) : slotWord k m = slotWord k n := by
  have hm := storedReg_slotReg k m
  rw [h, storedReg_slotReg] at hm
  exact (Option.some.inj hm).symm

theorem writeReg_slotReg (p : Port) (n : Pin) (w : Word) (s : State) :
    writeReg p (slotReg n) w s = .next (s.withSlotWord p n w) := by
  unfold slotReg State.withSlotWord PortBlock.withSlotWord
  split <;> rfl

/-- The state after the read micro-step of a slot: the whole configuration register is in the latch (rules R24,
R100). -/
def State.afterSlotRead (s : State) (p : Port) (n : Pin) : State :=
  ((s.issue ⟨.read, slotAddress (s.base p) n, slotWord (s.block p) n⟩).latch (slotWord (s.block p) n)).goto (s.u + 1)

theorem State.afterSlotRead_ready {s : State} {p : Port} (h : Ready s p) (n : Pin) : Ready (s.afterSlotRead p n) p := h

theorem slotRead_ready {s : State} {p : Port} (h : Ready s p) (n : Pin) :
    slotRead (s.base p) n s = .next (s.afterSlotRead p n) := by
  unfold slotRead slotAddress
  rw [busRead_ready h, readReg_slotReg]
  rfl

/-- The write micro-step of a slot replaces the whole configuration register by a word made from the latch alone
(rules R66, R100). -/
theorem slotWrite_ready {s : State} {p : Port} (h : Ready s p) (n : Pin) (c : Nibble) :
    slotWrite (s.base p) n c s = .next ((s.withSlotWord p n (packSlot s.drv.t (slotShift n) c)).issue
      ⟨.write, slotAddress (s.base p) n, packSlot s.drv.t (slotShift n) c⟩) := by
  unfold slotWrite slotAddress
  rw [busWrite_ready h, writeReg_slotReg]
  rfl

/-- The address of the configuration register of a pin, as rule R65 gives it. -/
theorem slotAddress_eq (ref : Word) (n : Pin) : slotAddress ref n = ref + if n.val < 8 then 0x00#32 else 0x04#32 := by
  unfold slotAddress slotReg
  split <;> rfl

theorem memWrite_slotAddress {s : State} {p : Port} (h : Ready s p) (n : Pin) (w : Word) :
    memWrite (slotAddress (s.base p) n) 4 w s = .next (s.withSlotWord p n w) := by
  unfold slotAddress
  rw [memWrite_ready h, writeReg_slotReg]

/-! ### One slot replaced -/

theorem slotShift_eq (n : Pin) : slotShift n = slotIndex n % 8 * 4 := rfl

/-- Packing a slot gives that slot the nibble and keeps the other seven (rule R66). -/
theorem packSlot_slot (old : Word) (n m : Pin) (c : Nibble) :
    (packSlot old (slotShift n) c).extractLsb' (slotShift m) 4 =
      if slotShift m = slotShift n then c else old.extractLsb' (slotShift m) 4 := by
  have hn := slotShift_eq n
  have hm := slotShift_eq m
  apply BitVec.eq_of_getLsbD_eq
  intro i hi
  rw [BitVec.getLsbD_extractLsb', packSlot_getLsbD _ _ _ _ (by omega) (by omega)]
  by_cases h : slotShift m = slotShift n
  · rw [if_pos h, if_pos (by omega), h, Nat.add_sub_cancel_left]
    simp [hi]
  · rw [if_neg h, if_neg (by omega), BitVec.getLsbD_extractLsb']

/-- A pin is known by its configuration register and its slot in it (rule R65). -/
theorem pin_eq_of_slot {n m : Pin} : slotReg m = slotReg n → slotShift m = slotShift n → m = n := by
  revert n m; decide

/-- The configuration register of a pin written back with the pin's slot replaced changes that slot and no other. -/
theorem slotValue_withSlotWord_packSlot (s : State) (p q : Port) (n m : Pin) (c : Nibble) :
    (s.withSlotWord p n (packSlot (slotWord (s.block p) n) (slotShift n) c)).slotValue q m =
      if q = p ∧ m = n then c else s.slotValue q m := by
  unfold State.slotValue State.withSlotWord
  rw [State.setBlock_block]
  by_cases hq : q = p
  · subst hq
    rw [if_pos rfl, slotWord_withSlotWord]
    by_cases hreg : slotReg m = slotReg n
    · have hpin : slotShift m = slotShift n ↔ q = q ∧ m = n :=
        ⟨fun hsh => ⟨rfl, pin_eq_of_slot hreg hsh⟩, fun h => by rw [h.2]⟩
      rw [if_pos hreg, packSlot_slot, ← slotWord_congr hreg]
      exact if_congr hpin rfl rfl
    · rw [if_neg hreg, if_neg fun h => hreg (by rw [h.2])]
  · rw [if_neg hq, if_neg fun h => hq h.1]

theorem State.slotValue_congr {s t : State} (h : t.ports = s.ports) (p : Port) (n : Pin) :
    t.slotValue p n = s.slotValue p n := by
  unfold State.slotValue State.block
  rw [h]

/-! ### CFGPIN with a write of the other agent inside it -/

theorem State.withTurns_ready {s : State} {p : Port} (h : Ready s p) (turns : List Turn) :
    Ready (s.withTurns turns) p := h

/-- The first micro-step of CFGPIN (rule R100). -/
theorem execCfgpin_read {s : State} {p : Port} (h : Ready s p) (n : Pin) (c : Nibble) (hu : s.u = 0) :
    execCfgpin p.code (BitVec.ofNat 8 n.val) (c.setWidth 8) s = .next (s.afterSlotRead p n) := by
  simp only [execCfgpin, withPort_code, withPin_val, withCfg_nibble, hu, slotRead_ready h]

/-- The second micro-step of CFGPIN: the word it writes comes from the latch, not from the register (rule R100). -/
theorem execCfgpin_write {s : State} {p : Port} (h : Ready s p) (n : Pin) (c : Nibble) (hu : s.u = 1) :
    execCfgpin p.code (BitVec.ofNat 8 n.val) (c.setWidth 8) s =
      .next (((s.withSlotWord p n (packSlot s.drv.t (slotShift n) c)).issue
        ⟨.write, slotAddress (s.base p) n, packSlot s.drv.t (slotShift n) c⟩).complete .none) := by
  simp only [execCfgpin, withPort_code, withPin_val, withCfg_nibble, hu, slotWrite_ready h, andThen_next]

/-- The command at `cp` is a CFGPIN (rules R25, R100). -/
def AtCfgpin (s : State) (p : Port) (n : Pin) (c : Nibble) : Prop :=
  ∃ com, s.stream[s.cp]? = some com ∧ decode com = .ok (.cfgpin p.code (BitVec.ofNat 8 n.val) (c.setWidth 8))

theorem step_of_driver_turn_at_cfgpin {s : State} {p : Port} {n : Pin} {c : Nibble} {rest : List Turn}
    (hcmd : AtCfgpin s p n c) (hturns : s.turns = .driver :: rest) :
    step s = execCfgpin p.code (BitVec.ofNat 8 n.val) (c.setWidth 8) (s.withTurns rest) := by
  obtain ⟨com, hcom, hdecode⟩ := hcmd
  exact (stepRunsDecodedInstruction s com _ hcom hdecode).2 rest hturns

/-- The driver's turn at the first micro-step of a CFGPIN. -/
theorem step_cfgpin_read {s : State} {p : Port} {n : Pin} {c : Nibble} {rest : List Turn} (h : Ready s p)
    (hcmd : AtCfgpin s p n c) (hu : s.u = 0) (hturns : s.turns = .driver :: rest) :
    step s = .next ((s.withTurns rest).afterSlotRead p n) :=
  (step_of_driver_turn_at_cfgpin hcmd hturns).trans (execCfgpin_read (State.withTurns_ready h rest) n c hu)

/-- The driver's turn at the second micro-step of a CFGPIN: the ports it leaves. -/
theorem step_cfgpin_write {s : State} {p : Port} {n : Pin} {c : Nibble} {rest : List Turn} (h : Ready s p)
    (hcmd : AtCfgpin s p n c) (hu : s.u = 1) (hturns : s.turns = .driver :: rest) :
    ∃ t, step s = .next t ∧ t.ports = (s.withSlotWord p n (packSlot s.drv.t (slotShift n) c)).ports :=
  ⟨_, (step_of_driver_turn_at_cfgpin hcmd hturns).trans (execCfgpin_write (State.withTurns_ready h rest) n c hu), rfl⟩

/-- A turn of the other agent that writes the configuration register of a pin (rules R49, R51). -/
theorem step_of_other_slotWrite {s : State} {p : Port} {n : Pin} {w : Word} {rest : List Turn} (h : Ready s p)
    (hturns : s.turns = .other (.write (slotAddress (s.base p) n) w) :: rest) :
    step s = .next ((s.withTurns rest).withSlotWord p n w) :=
  (step_of_other_turn hturns).trans (memWrite_slotAddress (State.withTurns_ready h rest) n w)

/-- A run begins with its first step. -/
theorem run_succ_of_step {s t : State} (h : step s = .next t) (k : Nat) :
    Host.Core.run core (k + 1) s = Host.Core.run core k t := by
  have hstep : core.step s = .next t := h
  simp only [Host.Core.run, hstep]

/-- The write micro-step makes its word from the latch, so the write of the other agent after the read is overwritten
in the whole register (rules R51, R154). -/
theorem run_cfgpin_around_write {s : State} {p : Port} {n : Pin} {c : Nibble} {w : Word} (h : Ready s p) (hu : s.u = 0)
    (hcmd : AtCfgpin s p n c)
    (hturns : s.turns = [.driver, .other (.write (slotAddress (s.base p) n) w), .driver]) :
    ∃ t, Host.Core.run core 3 s = .next t ∧
      t.ports = (s.withSlotWord p n (packSlot (slotWord (s.block p) n) (slotShift n) c)).ports := by
  have hread := step_cfgpin_read h hcmd hu hturns
  have hready := State.withTurns_ready h [.other (.write (slotAddress (s.base p) n) w), .driver]
  have hready_read := State.afterSlotRead_ready hready n
  have hother := step_of_other_slotWrite hready_read (n := n) (w := w) rfl
  have hready_other := State.withSlotWord_ready (State.withTurns_ready hready_read [.driver]) p n w
  -- Neither the read nor the other agent has moved the sequencer on from the command.
  obtain ⟨t, hwrite, hports⟩ := step_cfgpin_write hready_other hcmd (congrArg (· + 1) hu) rfl
  refine ⟨t, ?_, ?_⟩
  · rw [run_succ_of_step hread, run_succ_of_step hother, run_succ_of_step hwrite]
    rfl
  · rw [hports, State.withSlotWord_withSlotWord]
    rfl

/-- Settles O52: the run ends with the register that CFGPIN alone would have written. -/
theorem lostUpdateOfConfiguration : Obligations.LostUpdateOfConfiguration := by
  intro s p n c com w h hu hcom hdecode hturns
  rw [← slotAddress_eq] at hturns
  obtain ⟨t, hrun, hports⟩ := run_cfgpin_around_write h hu ⟨com, hcom, hdecode⟩ hturns
  have hslot (q : Port) (m : Pin) : t.slotValue q m = if q = p ∧ m = n then c else s.slotValue q m := by
    rw [State.slotValue_congr hports, slotValue_withSlotWord_packSlot]
  refine ⟨t, hrun, (hslot p n).trans (if_pos ⟨rfl, rfl⟩), fun q m hne => ?_⟩
  exact (hslot q m).trans (if_neg fun ⟨hq, hm⟩ => hne (by rw [hq, hm]))

end Sys2Proof.Machine

/-! SUPPORT. The command word (rules R70 to R72): a control word is its four fields, and an instruction decodes from
exactly the word that `encode` writes for it, so that each row of the opcode table selects the words of one mnemonic. -/

namespace Sys2Proof

open Machine

/-! ### The fields of a control word -/

/-- A control word is made of the four fields read from it (rule R70). -/
theorem controlWord_fields (cw : Word) :
    controlWord (opField cw) (portField cw) (selField cw) (cfgField cw) = cw := by
  apply BitVec.eq_of_getLsbD_eq
  intro i hi
  rw [controlWord_getLsbD]
  simp only [opField, portField, selField, cfgField, BitVec.getLsbD_extractLsb']
  split_ifs with h8 h16 h24
  · simp [h8]
  · simp [show i - 8 < 8 by omega, show 8 + (i - 8) = i by omega]
  · simp [show i - 16 < 8 by omega, show 16 + (i - 16) = i by omega]
  · simp [show i - 24 < 8 by omega, show 24 + (i - 24) = i by omega]

theorem controlWord_inj {op port sel cfg op' port' sel' cfg' : Byte} :
    controlWord op port sel cfg = controlWord op' port' sel' cfg' ↔
      op = op' ∧ port = port' ∧ sel = sel' ∧ cfg = cfg' := by
  refine ⟨fun h => ⟨?_, ?_, ?_, ?_⟩, fun ⟨hop, hport, hsel, hcfg⟩ => by rw [hop, hport, hsel, hcfg]⟩
  · simpa only [opField_controlWord] using congrArg opField h
  · simpa only [portField_controlWord] using congrArg portField h
  · simpa only [selField_controlWord] using congrArg selField h
  · simpa only [cfgField_controlWord] using congrArg cfgField h

/-- Masking a control word masks each field. -/
theorem controlWord_and_controlWord (op port sel cfg op' port' sel' cfg' : Byte) :
    controlWord op port sel cfg &&& controlWord op' port' sel' cfg' =
      controlWord (op &&& op') (port &&& port') (sel &&& sel') (cfg &&& cfg') := by
  apply BitVec.eq_of_getLsbD_eq
  intro i _
  simp only [BitVec.getLsbD_and, controlWord_getLsbD]
  split_ifs <;> rfl

/-! ### Decoding and encoding -/

theorem unusedZero_eq_some {unused : Bool} {o : Option Instr} {i : Instr} (h : unusedZero unused o = some i) :
    unused = true ∧ o = some i := by
  unfold unusedZero at h
  split at h
  · exact ⟨‹_›, h⟩
  · cases h

/-- The presented command carries the control word of the instruction, and its data operand where it reads one. -/
def Presents (c : Command) (i : Instr) : Prop := (encode i).cw = c.cw ∧ ∀ w, i.wdata? = some w → w = c.wdata

theorem presents_of_decodeRead {port sel : Byte} {w : Word} {i : Instr} (h : decodeRead port sel = some i) :
    Presents ⟨controlWord 0x02 port sel 0, w⟩ i := by
  unfold decodeRead at h
  split at h <;> cases h
  all_goals
    rename_i hsel
    obtain ⟨-, rfl⟩ := BitVec.toNat_eq_nat.mp hsel
    exact ⟨rfl, nofun⟩

theorem presents_of_decodeWrite {port sel : Byte} {w : Word} {i : Instr} (h : decodeWrite port sel w = some i) :
    Presents ⟨controlWord 0x03 port sel 0, w⟩ i := by
  unfold decodeWrite at h
  split at h <;> cases h
  all_goals
    rename_i hsel
    obtain ⟨-, rfl⟩ := BitVec.toNat_eq_nat.mp hsel
    exact ⟨rfl, fun _ hw => (Option.some.inj hw).symm⟩

/-- Each opcode of the map admits one form of control word, whose unused fields are zero (rules R70, R72). -/
theorem presents_of_decodeFields {op port sel cfg : Byte} {w : Word} {i : Instr}
    (h : decodeFields op port sel cfg w = some i) : Presents ⟨controlWord op port sel cfg, w⟩ i := by
  unfold decodeFields at h
  split at h
  -- An opcode outside the map.
  case h_11 => cases h
  all_goals
    rename_i hop
    obtain ⟨-, rfl⟩ := BitVec.toNat_eq_nat.mp hop
  -- CFGPIN uses every field; each other opcode asks for zeros in the fields that it does not use.
  case h_4 =>
    cases h
    exact ⟨rfl, nofun⟩
  all_goals
    obtain ⟨hunused, hi⟩ := unusedZero_eq_some h
    simp only [Bool.and_eq_true, beq_iff_eq] at hunused
  -- RD.x and WR.x
  case h_2 =>
    subst hunused
    exact presents_of_decodeRead hi
  case h_3 =>
    subst hunused
    exact presents_of_decodeWrite hi
  -- The other opcodes have one command each.
  all_goals cases hi
  case h_1 =>
    obtain ⟨rfl, rfl⟩ := hunused
    exact ⟨rfl, nofun⟩
  case h_5 | h_6 =>
    subst hunused
    exact ⟨rfl, nofun⟩
  all_goals
    obtain ⟨⟨rfl, rfl⟩, rfl⟩ := hunused
    exact ⟨rfl, nofun⟩

/-- The operands of the instruction stand in their fields of the command (rule R70). -/
def HasOperands (c : Command) (i : Instr) : Prop :=
  (∀ port, i.port? = some port → portField c.cw = port) ∧
  (∀ pin, i.pin? = some pin → selField c.cw = pin) ∧
  (∀ cfg, i.cfg? = some cfg → cfgField c.cw = cfg) ∧
  ∀ w, i.wdata? = some w → c.wdata = w

theorem hasOperands_encode (i : Instr) : HasOperands (encode i) i := by
  cases i
  exacts [Laws.EncodedFields.atPort _, Laws.EncodedFields.rdCfglo _, Laws.EncodedFields.rdCfghi _,
    Laws.EncodedFields.rdIdata _, Laws.EncodedFields.rdOdata _, Laws.EncodedFields.rdSetrst _,
    Laws.EncodedFields.rdRstonly _, Laws.EncodedFields.rdLock _, Laws.EncodedFields.wrCfglo _ _,
    Laws.EncodedFields.wrCfghi _ _, Laws.EncodedFields.wrIdata _ _, Laws.EncodedFields.wrOdata _ _,
    Laws.EncodedFields.wrSetrst _ _, Laws.EncodedFields.wrRstonly _ _, Laws.EncodedFields.wrLock _ _,
    Laws.EncodedFields.cfgpin _ _ _, Laws.EncodedFields.cfgall _ _, Laws.EncodedFields.initPin _ _,
    Laws.EncodedFields.seton, Laws.EncodedFields.setoff, Laws.EncodedFields.runfast, Laws.EncodedFields.rundiag]

theorem presents_encode (i : Instr) : Presents (encode i) i := by
  obtain ⟨-, -, -, hwdata⟩ := hasOperands_encode i
  exact ⟨rfl, fun w hw => (hwdata w hw).symm⟩

theorem Presents.hasOperands {c : Command} {i : Instr} (h : Presents c i) : HasOperands c i := by
  obtain ⟨hcw, hw⟩ := h
  obtain ⟨hport, hpin, hcfg, -⟩ := hasOperands_encode i
  rw [hcw] at hport hpin hcfg
  exact ⟨hport, hpin, hcfg, fun w h => (hw w h).symm⟩

theorem decode_of_presents {c : Command} {i : Instr} (h : Presents c i) : decode c = .ok i := by
  obtain ⟨cw, w⟩ := c
  obtain ⟨rfl, hw⟩ := h
  cases i
  case wrCfglo | wrCfghi | wrIdata | wrOdata | wrSetrst | wrRstonly | wrLock =>
    obtain rfl := hw _ rfl
    exact decode_controlWord rfl
  all_goals exact decode_controlWord rfl

/-- A command decodes to an instruction exactly when it presents it (rules R70, R72). -/
theorem decode_eq_ok_iff {c : Command} {i : Instr} : decode c = .ok i ↔ Presents c i := by
  refine ⟨fun h => ?_, decode_of_presents⟩
  unfold decode at h
  split at h
  · cases h
    have hfields := presents_of_decodeFields ‹_›
    rwa [controlWord_fields] at hfields
  · cases h

/-- Settles O1: the encoding of an instruction presents it. -/
theorem decodeOfEncode : Obligations.DecodeOfEncode := fun i => decode_of_presents (presents_encode i)

/-- Settles O2: what decodes to an instruction presents it. -/
theorem encodeOfDecode : Obligations.EncodeOfDecode := fun _ _ => decode_eq_ok_iff.mp

/-! ### The rows of the opcode table -/

/-- The mask of a field of the control word: zero where the field is an operand, all ones where it is fixed. -/
def operandMask : Option Byte → Byte
  | some _ => 0x00
  | none => 0xFF

theorem and_operandMask_none (x : Byte) : x &&& operandMask none = x := BitVec.and_allOnes

theorem and_operandMask_some (x v : Byte) : x &&& operandMask (some v) = 0x00 := BitVec.and_zero

/-- A masked field agrees with another where they hold the same operand, or where they are equal. -/
theorem and_operandMask_eq_iff {operand : Option Byte} {x y : Byte} (hx : ∀ v, operand = some v → x = v)
    (hy : ∀ v, operand = some v → y = v) : x &&& operandMask operand = y &&& operandMask operand ↔ x = y := by
  cases operand with
  | none => rw [and_operandMask_none, and_operandMask_none]
  | some v => simp [hx v rfl, hy v rfl]

/-- The row of the opcode table that an instruction belongs to (rule R72), from its encoding and its operands. -/
def Instr.row (i : Instr) : OpcodeRow :=
  let mask := controlWord (operandMask none) (operandMask i.port?) (operandMask i.pin?) (operandMask i.cfg?)
  ⟨i.mnemonic, (encode i).cw &&& mask, mask⟩

/-- The 22 instructions in the order of the table, the operands read from a control word. -/
def rowInstrs (cw w : Word) : List Instr :=
  [.atPort (portField cw),
    .rdCfglo (portField cw), .rdCfghi (portField cw), .rdIdata (portField cw), .rdOdata (portField cw),
    .rdSetrst (portField cw), .rdRstonly (portField cw), .rdLock (portField cw),
    .wrCfglo (portField cw) w, .wrCfghi (portField cw) w, .wrIdata (portField cw) w, .wrOdata (portField cw) w,
    .wrSetrst (portField cw) w, .wrRstonly (portField cw) w, .wrLock (portField cw) w,
    .cfgpin (portField cw) (selField cw) (cfgField cw), .cfgall (portField cw) (cfgField cw),
    .initPin (portField cw) (selField cw), .seton, .setoff, .runfast, .rundiag]

/-- The instructions of the list are those whose operands the command holds. -/
theorem mem_rowInstrs_iff {cw w : Word} {i : Instr} : i ∈ rowInstrs cw w ↔ HasOperands ⟨cw, w⟩ i := by
  cases i <;> simp [rowInstrs, HasOperands, Instr.port?, Instr.pin?, Instr.cfg?, Instr.wdata?, eq_comm]

theorem opcodeTable_eq_map_row (cw w : Word) : opcodeTable = (rowInstrs cw w).map Instr.row := by
  simp only [rowInstrs, List.map, Instr.row, encode, Instr.mnemonic, Instr.port?, Instr.pin?, Instr.cfg?,
    controlWord_and_controlWord, and_operandMask_none, and_operandMask_some]
  simp only [operandMask]
  decide

/-- Where the operands agree, the row's mask and match pick out the control word that the instruction encodes to. -/
theorem and_rowMask_eq_iff {c : Command} {i : Instr} (h : HasOperands c i) :
    c.cw &&& i.row.mask = i.row.pattern ↔ c.cw = (encode i).cw := by
  obtain ⟨hport, hpin, hcfg, -⟩ := h
  obtain ⟨hport', hpin', hcfg', -⟩ := hasOperands_encode i
  rw [Instr.row, ← controlWord_fields c.cw, ← controlWord_fields (encode i).cw, controlWord_and_controlWord,
    controlWord_and_controlWord, controlWord_inj, controlWord_inj, and_operandMask_none, and_operandMask_none,
    and_operandMask_eq_iff hport hport', and_operandMask_eq_iff hpin hpin', and_operandMask_eq_iff hcfg hcfg']

/-- A command decodes to an instruction exactly when it holds its operands and its control word selects its row. -/
theorem decode_eq_ok_iff_row {c : Command} {i : Instr} :
    decode c = .ok i ↔ HasOperands c i ∧ c.cw &&& i.row.mask = i.row.pattern := by
  rw [decode_eq_ok_iff]
  constructor
  · intro h
    have hops := h.hasOperands
    obtain ⟨hcw, -⟩ := h
    exact ⟨hops, (and_rowMask_eq_iff hops).mpr hcw.symm⟩
  · rintro ⟨hops, hrow⟩
    have hcw := (and_rowMask_eq_iff hops).mp hrow
    obtain ⟨-, -, -, hw⟩ := hops
    exact ⟨hcw.symm, fun w h => (hw w h).symm⟩

theorem OpcodeRow.selects_iff {r : OpcodeRow} {cw : Word} : r.selects cw = true ↔ cw &&& r.mask = r.pattern :=
  beq_iff_eq

/-- A control word that selects a row of the table decodes to an instruction of that row. -/
theorem decode_of_selects {c : Command} {r : OpcodeRow} (hr : r ∈ opcodeTable) (h : r.selects c.cw = true) :
    ∃ i, decode c = .ok i ∧ i.row = r := by
  rw [opcodeTable_eq_map_row c.cw c.wdata, List.mem_map] at hr
  obtain ⟨i, hi, rfl⟩ := hr
  exact ⟨i, decode_eq_ok_iff_row.mpr ⟨mem_rowInstrs_iff.mp hi, OpcodeRow.selects_iff.mp h⟩, rfl⟩

theorem row_mem_opcodeTable (i : Instr) : i.row ∈ opcodeTable := by
  rw [opcodeTable_eq_map_row (encode i).cw (encode i).wdata]
  exact List.mem_map_of_mem (mem_rowInstrs_iff.mpr (hasOperands_encode i))

/-- Settles O4: two rows that a control word selects are both the row of the one instruction it decodes to. -/
theorem opcodeRowsDisjointAndComplete : Obligations.OpcodeRowsDisjointAndComplete := by
  refine ⟨fun cw r q hr hq hselr hselq => ?_, fun c => ?_⟩
  · obtain ⟨i, hi, rfl⟩ := decode_of_selects (c := ⟨cw, 0⟩) hr hselr
    obtain ⟨j, hj, rfl⟩ := decode_of_selects (c := ⟨cw, 0⟩) hq hselq
    cases hi.symm.trans hj
    rfl
  · split
    next i hi =>
      obtain ⟨-, hrow⟩ := decode_eq_ok_iff_row.mp hi
      exact ⟨i.row, row_mem_opcodeTable i, rfl, OpcodeRow.selects_iff.mpr hrow⟩
    next e he =>
      refine ⟨decode_eq_error he, fun r hr => Bool.eq_false_iff.mpr fun hsel => ?_⟩
      obtain ⟨i, hi, -⟩ := decode_of_selects hr hsel
      cases he.symm.trans hi

/-- Row by row, the match and mask of the table decide whether the word decodes to the row's instruction. -/
theorem opcodeTable_decides (cw w : Word) :
    List.Forall₂ (fun r i => cw &&& r.mask = r.pattern ↔ decode ⟨cw, w⟩ = .ok i) opcodeTable (rowInstrs cw w) := by
  rw [opcodeTable_eq_map_row cw w, List.forall₂_map_left_iff, List.forall₂_same]
  intro i hi
  exact ⟨fun h => decode_eq_ok_iff_row.mpr ⟨mem_rowInstrs_iff.mp hi, h⟩, fun h => (decode_eq_ok_iff_row.mp h).2⟩

/-- The instruction beside the first row whose mask and match the control word fits (rule R72). -/
def firstSelected (cw : Word) : List OpcodeRow → List Instr → Except DecodeError Instr
  | r :: rows, i :: instrs => if cw &&& r.mask = r.pattern then .ok i else firstSelected cw rows instrs
  | _, _ => .error (.illegalCommand cw)

theorem eq_firstSelected {cw : Word} {answer : Except DecodeError Instr} {rows : List OpcodeRow} {instrs : List Instr}
    (hrows : List.Forall₂ (fun r i => cw &&& r.mask = r.pattern ↔ answer = .ok i) rows instrs)
    (herror : ∀ e, answer = .error e → e = .illegalCommand cw) (hok : ∀ i, answer = .ok i → i ∈ instrs) :
    answer = firstSelected cw rows instrs := by
  induction hrows with
  | nil =>
    cases answer with
    | error e => rw [herror e rfl]; rfl
    | ok i => exact absurd (hok i rfl) List.not_mem_nil
  | @cons r i rows instrs hrow _ ih =>
    rw [firstSelected]
    split
    next hsel => exact hrow.mp hsel
    next hsel =>
      refine ih fun j hj => (List.mem_cons.mp (hok j hj)).resolve_left fun hji => hsel (hrow.mpr ?_)
      rw [hj, hji]

/-- The decoder answers with the first row of the table that the control word selects. -/
theorem decode_eq_firstSelected (cw w : Word) : decode ⟨cw, w⟩ = firstSelected cw opcodeTable (rowInstrs cw w) :=
  eq_firstSelected (opcodeTable_decides cw w) (fun _ => decode_eq_error) fun _ h =>
    mem_rowInstrs_iff.mpr (decode_eq_ok_iff_row.mp h).1

theorem and_fullMask (cw : Word) : cw &&& 0xFFFFFFFF = cw := BitVec.and_allOnes

/-- Settles O3: the chain of conditions is the table, tried from the first row to the last. -/
theorem decodeFollowsOpcodeMap : Obligations.DecodeFollowsOpcodeMap := by
  intro cw w
  rw [decode_eq_firstSelected]
  simp only [opcodeTable, rowInstrs, firstSelected, and_fullMask]
  rfl

/-- Settles O5: each example word is the encoding of its command, and no row of the table selects 0x0B000000. -/
theorem exampleWordsDecode : Obligations.ExampleWordsDecode :=
  ⟨decodeOfEncode (.atPort 2), decodeOfEncode (.rdOdata 2), decodeOfEncode (.wrSetrst 2 0x00002000),
    decodeOfEncode (.cfgpin 0 5 3), decodeOfEncode (.cfgall 0 3), decodeOfEncode (.initPin 2 13),
    decodeOfEncode .seton, decodeOfEncode .setoff, decodeOfEncode .runfast, decodeOfEncode .rundiag, rfl⟩

/-- Settles O6: the pseudo-commands are defined as rule R76 expands them. -/
theorem pseudoCommandExpansions : Obligations.PseudoCommandExpansions := fun _ _ => ⟨rfl, rfl, rfl⟩

end Sys2Proof

/-! SUPPORT. The operand computations (rules R23, R64 to R66, R69): the slot of a pin, the word that replaces one slot,
the masks of a pin, and the meaning of a configuration nibble. -/

namespace Sys2Proof.Machine

/-! ### The slot of a pin -/

theorem slotReg_of_lt {n : Pin} (h : n.val < 8) : slotReg n = .cfglo := if_pos h

theorem slotReg_of_le {n : Pin} (h : 8 ≤ n.val) : slotReg n = .cfghi := if_neg (Nat.not_lt.mpr h)

theorem slotIndex_of_lt {n : Pin} (h : n.val < 8) : slotIndex n = n.val := if_pos h

theorem slotIndex_of_le {n : Pin} (h : 8 ≤ n.val) : slotIndex n = n.val - 8 := if_neg (Nat.not_lt.mpr h)

theorem slotIndex_lt (n : Pin) : slotIndex n < 8 := by
  unfold slotIndex
  split <;> omega

/-- The slot number is below 8 already, so the shift is four times it. -/
theorem slotShift_eq_four_mul (n : Pin) : slotShift n = 4 * slotIndex n := by
  rw [slotShift_eq, Nat.mod_eq_of_lt (slotIndex_lt n), Nat.mul_comm]

/-- Settles O7, from the equations of the slot. -/
theorem slotSelection : Obligations.SlotSelection := fun n =>
  ⟨fun h => ⟨slotReg_of_lt h, slotIndex_of_lt h⟩, fun h => ⟨slotReg_of_le h, slotIndex_of_le h⟩, slotShift_eq n,
    slotShift_eq_four_mul n, rfl, fun ref => slotAddress_eq ref n⟩

theorem exists_pin_of_slot {j : Nat} (hj : j < 8) : ∃ m : Pin, slotIndex m = j :=
  ⟨⟨j, by omega⟩, slotIndex_of_lt hj⟩

/-- Settles O8: slot `j` is the slot of a pin, so it is replaced or kept as `packSlot_slot` says. -/
theorem packSlotReplacesOneSlot : Obligations.PackSlotReplacesOneSlot := by
  refine ⟨fun _ _ _ => rfl, fun old n c j hj => ?_⟩
  obtain ⟨m, rfl⟩ := exists_pin_of_slot hj
  have hslot : slotShift m = slotShift n ↔ slotIndex m = slotIndex n := by
    rw [slotShift_eq_four_mul, slotShift_eq_four_mul]
    omega
  rw [← slotShift_eq_four_mul, packSlot_slot]
  exact if_congr hslot rfl rfl

/-! ### The masks of a pin -/

theorem one_shiftLeft_eq_ofNat (k : Nat) : 1#32 <<< k = BitVec.ofNat 32 (2 ^ k) := by
  apply BitVec.eq_of_toNat_eq
  rw [← BitVec.twoPow_eq, BitVec.toNat_twoPow, BitVec.toNat_ofNat]

theorem onMaskOf_eq_shiftLeft (n : Pin) : onMaskOf n = offMaskOf n <<< 16 := BitVec.shiftLeft_add ..

/-- The off mask has one bit, below 16, and the on mask has none there. -/
theorem offMaskOf_and_onMaskOf (n : Pin) : offMaskOf n &&& onMaskOf n = 0 := by
  have hbit : (onMaskOf n).getLsbD n.val = false := by
    rw [onMaskOf, ← BitVec.twoPow_eq, BitVec.getLsbD_twoPow]
    simp
  rw [offMaskOf, ← BitVec.twoPow_eq, BitVec.twoPow_and, hbit]
  rfl

/-- Settles O9, from the equations of the masks. -/
theorem pinMasks : Obligations.PinMasks := fun n =>
  ⟨one_shiftLeft_eq_ofNat n.val, one_shiftLeft_eq_ofNat (n.val + 16), onMaskOf_eq_shiftLeft n,
    offMaskOf_and_onMaskOf n⟩

/-! ### The meaning of a configuration nibble -/

theorem meaningOf_nibbleOf (m : PinConfig) : meaningOf (nibbleOf m) = some m := by
  cases m with
  | input style => cases style <;> rfl
  | output speed style => cases speed <;> cases style <;> rfl

theorem nibbleOf_of_meaningOf : ∀ (v : Nibble), ∀ m ∈ meaningOf v, nibbleOf m = v := by decide

/-- A nibble and its meaning determine each other (rule R64). -/
theorem meaningOf_eq_some_iff {v : Nibble} {m : PinConfig} : meaningOf v = some m ↔ nibbleOf m = v :=
  ⟨nibbleOf_of_meaningOf v m, fun h => h ▸ meaningOf_nibbleOf m⟩

/-- Settles O10: the table of rule R64 by evaluation, then its inverse. -/
theorem nibbleMeanings : Obligations.NibbleMeanings :=
  ⟨rfl, rfl, rfl, rfl, rfl, rfl, rfl, rfl, rfl, rfl, rfl, rfl, rfl, rfl, rfl, rfl, fun _ _ => meaningOf_eq_some_iff⟩

end Sys2Proof.Machine

/-! SUPPORT. The register access commands (rules R80 to R95): the control word of each decodes to it, a port operand
above 2 faults, and at a port that meets the premises a command is the rule of its register between one bus transaction
and the response. -/

namespace Sys2Proof.Machine

/-! ### The two checks that every register access command begins with -/

/-- A command word with a port operand, whose `cfg` field is zero, decodes as its fields do (rules R70, R72). -/
theorem decode_portWord {op port sel : Byte} {w : Word} {i : Instr} (h : decodeFields op port sel 0 w = some i) :
    decode ⟨(op.setWidth 32 <<< 24 ||| sel.setWidth 32 <<< 8) ||| port.setWidth 32 <<< 16, w⟩ = .ok i := by
  rw [← controlWord_eq_or_port]
  exact decode_controlWord h

/-- At micro-step 0, with a port operand that names a port, the command goes on with that port. -/
theorem portCommand_code {s : State} (hu : s.u = 0) (p : Port) (k : Port → Attempt State) :
    oneMicroStep s (withPort p.code k) = k p := by
  rw [oneMicroStep, if_pos hu, withPort_code]

/-- At micro-step 0, a port operand above 2 faults, whatever the command would do (rules R80, R131). -/
theorem portCommand_illegal {s : State} {port : Byte} (hu : s.u = 0) (h : 2 < port.toNat)
    (k : Port → Attempt State) : oneMicroStep s (withPort port k) = .fault (.invalidBase port) := by
  rw [oneMicroStep, if_pos hu, withPort_illegal h]

/-! ### The commands at a port that meets the premises -/

/-- A read command answers with what the read rule of its register gives. -/
theorem readCommand_of_readReg {s s' : State} {p : Port} {r : Reg} {v : Word} (h : Ready s p) (hu : s.u = 0)
    (hread : readReg p r s = .next (v, s')) : readCommand r p.code s =
      .next ((s'.issue ⟨.read, regAddress (s.base p) r, v⟩).complete (.value v)) := by
  rw [readCommand, portCommand_code hu, busRead_ready h, hread]
  rfl

/-- A write command leaves what the write rule of its register leaves. -/
theorem writeCommand_of_writeReg {s s' : State} {p : Port} {r : Reg} {w : Word} (h : Ready s p) (hu : s.u = 0)
    (hwrite : writeReg p r w s = .next s') : writeCommand r p.code w s =
      .next ((s'.issue ⟨.write, regAddress (s.base p) r, w⟩).complete .none) := by
  rw [writeCommand, portCommand_code hu, busWrite_ready h, hwrite]
  rfl

/-- WR.SETRST in one equation, the same for every setting of `BSR_CONFLICT` (rules R17, R93). -/
theorem exec_wrSetrst {s : State} {p : Port} (h : Ready s p) (hu : s.u = 0) (w : Word) :
    exec (.wrSetrst p.code w) s = .next { s with
      ports := s.ports.set p { s.block p with
        odata := afterSetrst s.par.bsrConflict (Config.draw32 (.conflict p) s.draws) (s.block p).odata w }
      result := .none, cp := s.cp + 1, u := 0, draws := drawsAfterSetrst w s
      trace := s.trace ++ [⟨.write, s.base p + 0x10#32, w⟩] } :=
  writeCommand_of_writeReg (r := .setrst) h hu (congrArg Host.Outcome.next (writeSetrst_eq p w s))

/-- Where `BSR_CONFLICT` is not `any`, WR.SETRST draws no free value. -/
theorem exec_wrSetrst_of_ne_any {s : State} {p : Port} (h : Ready s p) (hu : s.u = 0)
    (hmode : s.par.bsrConflict ≠ .any) (w : Word) :
    exec (.wrSetrst p.code w) s = .next { s with
      ports := s.ports.set p { s.block p with
        odata := afterSetrst s.par.bsrConflict (Config.draw32 (.conflict p) s.draws) (s.block p).odata w }
      result := .none, cp := s.cp + 1, u := 0
      trace := s.trace ++ [⟨.write, s.base p + 0x10#32, w⟩] } := by
  rw [exec_wrSetrst h hu, drawsAfterSetrst_of_ne_any hmode]

/-! ### The five families of commands -/

/-- Settles O30: the write rules of ODATA and RSTONLY, and that of SETRST at each setting of `BSR_CONFLICT`. -/
theorem writesOfDataRegisters : Obligations.WritesOfDataRegisters := by
  refine ⟨fun port w => ⟨?_, ?_, ?_⟩, fun s w hu => ⟨fun p h => ⟨?_, fun hmode => ?_, fun hmode => ?_,
    fun hmode => ?_, ?_⟩, fun port hport => ⟨?_, ?_, ?_⟩⟩⟩
  · exact decode_portWord (op := 0x03) (sel := 3) rfl
  · exact decode_portWord (op := 0x03) (sel := 4) rfl
  · exact decode_portWord (op := 0x03) (sel := 5) rfl
  · exact writeCommand_of_writeReg (r := .odata) h hu rfl
  · rw [exec_wrSetrst_of_ne_any h hu (by simp [hmode]), hmode]
    rfl
  · rw [exec_wrSetrst_of_ne_any h hu (by simp [hmode]), hmode]
    rfl
  · refine ⟨lowHalf (Config.draw32 (.conflict p) s.draws), drawsAfterSetrst w s, ?_⟩
    rw [exec_wrSetrst h hu, hmode]
    rfl
  · exact writeCommand_of_writeReg (r := .rstonly) h hu rfl
  all_goals exact portCommand_illegal hu hport _

/-- Settles O25: AT is its check, then the base of the port as the response. -/
theorem atReturnsThePortBase : Obligations.AtReturnsThePortBase :=
  ⟨fun _ _ => decode_portWord (op := 0x01) (sel := 0) rfl,
    fun _ hu => ⟨fun p => portCommand_code hu p _, fun _ hport => portCommand_illegal hu hport _⟩⟩

/-- Settles O27: the read rule of ODATA answers the stored bits, the other three draw the value they answer. -/
theorem readsOfDataRegisters : Obligations.ReadsOfDataRegisters := by
  refine ⟨fun port w => ⟨?_, ?_, ?_, ?_⟩, fun s hu => ⟨fun p h => ⟨?_, ?_, ?_, ?_⟩, fun port hport => ?_⟩⟩
  · exact decode_portWord (op := 0x02) (sel := 3) rfl
  · exact decode_portWord (op := 0x02) (sel := 2) rfl
  · exact decode_portWord (op := 0x02) (sel := 4) rfl
  · exact decode_portWord (op := 0x02) (sel := 5) rfl
  · exact readCommand_ready (r := .odata) h hu rfl
  · exact ⟨_, readCommand_of_readReg (r := .idata) h hu rfl⟩
  · exact ⟨_, readCommand_of_readReg (r := .setrst) h hu rfl⟩
  · exact ⟨_, readCommand_of_readReg (r := .rstonly) h hu rfl⟩
  · exact ⟨readCommand_illegal hu hport .odata, readCommand_illegal hu hport .idata,
      readCommand_illegal hu hport .setrst, readCommand_illegal hu hport .rstonly⟩

/-- Settles O28: past the port check each of the three commands is its refusal. -/
theorem lockAndInputDataCommandsAreRefused : Obligations.LockAndInputDataCommandsAreRefused := by
  refine ⟨fun port w => ⟨?_, ?_, ?_⟩, fun s w hu => ⟨fun p => ⟨?_, ?_, ?_⟩, fun port hport => ⟨?_, ?_, ?_⟩⟩⟩
  · exact decode_portWord (op := 0x02) (sel := 6) rfl
  · exact decode_portWord (op := 0x03) (sel := 2) rfl
  · exact decode_portWord (op := 0x03) (sel := 6) rfl
  · exact portCommand_code hu p fun _ => .refused .lockNotModelled
  · exact portCommand_code hu p fun _ => .refused .writeToInputData
  · exact portCommand_code hu p fun _ => .refused .lockNotModelled
  all_goals exact portCommand_illegal hu hport _

/-- Settles O29: the write rules of CFGLO and CFGHI. -/
theorem writesOfConfigurationRegisters : Obligations.WritesOfConfigurationRegisters := by
  refine ⟨fun port w => ⟨?_, ?_⟩, fun s w hu => ⟨fun p h => ⟨?_, ?_⟩, fun port hport => ⟨?_, ?_⟩⟩⟩
  · exact decode_portWord (op := 0x03) (sel := 0) rfl
  · exact decode_portWord (op := 0x03) (sel := 1) rfl
  · exact writeCommand_of_writeReg (r := .cfglo) h hu rfl
  · exact writeCommand_of_writeReg (r := .cfghi) h hu rfl
  all_goals exact portCommand_illegal hu hport _

end Sys2Proof.Machine

/-! SUPPORT. The pin configuration commands (rules R100 to R103): their control words, each micro-step of CFGALL, and
the read-modify-write of one slot as one operation on the state, which CFGPIN runs once and CFGALL sixteen times. -/

namespace Sys2Proof.Machine

/-! ### The control words and the checks -/

/-- A control word with its `cfg` field set apart (rule R70). -/
theorem controlWord_eq_or_cfg (op port sel cfg : Byte) :
    controlWord op port sel cfg = controlWord op port sel 0 ||| cfg.setWidth 32 := by
  apply BitVec.eq_of_getLsbD_eq
  intro i hi
  rw [BitVec.getLsbD_or, controlWord_getLsbD, controlWord_getLsbD, BitVec.getLsbD_setWidth]
  by_cases h : i < 8
  · simp [h, hi]
  · simp [h, BitVec.getLsbD_of_ge cfg i (by omega)]

/-- The control word of CFGPIN (rule R72, table rows). -/
theorem decode_cfgpin (port pin cfg : Byte) (w : Word) :
    decode ⟨0x04000000#32 ||| port.setWidth 32 <<< 16 ||| pin.setWidth 32 <<< 8 ||| cfg.setWidth 32, w⟩ =
      .ok (.cfgpin port pin cfg) := by
  have hword : 0x04000000#32 ||| port.setWidth 32 <<< 16 ||| pin.setWidth 32 <<< 8 ||| cfg.setWidth 32 =
      controlWord 0x04 port pin cfg := by
    rw [controlWord_eq_or_cfg, controlWord_eq_or_port, BitVec.or_assoc 0x04000000#32,
      BitVec.or_comm (port.setWidth 32 <<< 16), ← BitVec.or_assoc 0x04000000#32]
    rfl
  rw [hword]
  exact decode_controlWord rfl

/-- The control word of CFGALL (rule R72, table rows). -/
theorem decode_cfgall (port cfg : Byte) (w : Word) :
    decode ⟨0x05000000#32 ||| port.setWidth 32 <<< 16 ||| cfg.setWidth 32, w⟩ = .ok (.cfgall port cfg) := by
  have hword : 0x05000000#32 ||| port.setWidth 32 <<< 16 ||| cfg.setWidth 32 = controlWord 0x05 port 0 cfg := by
    rw [controlWord_eq_or_cfg, controlWord_eq_or_port]
    rfl
  rw [hword]
  exact decode_controlWord rfl

/-- A violated precondition is the fault, where nothing is reported (rule R135). -/
theorem misuse_unchecked {s : State} (h : s.par.checked = false) (f : Fault) (r : Report) :
    misuse f r s = .fault f := by
  rw [misuse, h]
  rfl

/-- Settles O32: the checks one by one, then the two micro-steps with the slot of the pin written out. -/
theorem cfgpinMicroSteps : Obligations.CfgpinMicroSteps := by
  refine ⟨decode_cfgpin, fun s p n port pin cfg _ hchecked => ⟨fun hport => ?_, fun hpin => ?_, fun hcfg => ?_⟩,
    fun s p n c h => ⟨fun hu => ?_, fun hu => ?_⟩⟩
  · exact withPort_illegal hport _
  · show execCfgpin p.code pin cfg s = _
    rw [execCfgpin, withPort_code, withPin_illegal hpin, misuse_unchecked hchecked]
  · show execCfgpin p.code (BitVec.ofNat 8 n.val) cfg s = _
    rw [execCfgpin, withPort_code, withPin_val, withCfg_illegal hcfg]
  · rw [← slotAddress_eq]
    refine (execCfgpin_read h n c hu).trans ?_
    rw [State.afterSlotRead, hu]
    rfl
  · rw [← slotAddress_eq]
    exact execCfgpin_write h n c hu

/-! ### The micro-steps of CFGALL -/

theorem passPin_val {u : Nat} (h : u < 32) : (passPin u).val = u / 2 := Nat.mod_eq_of_lt (by omega)

/-- The even micro-steps of CFGALL (rule R102). -/
theorem execCfgall_read {s : State} {p : Port} (h : Ready s p) (c : Nibble) (hu : s.u < 32) (heven : s.u % 2 = 0) :
    execCfgall p.code (c.setWidth 8) s = .next (s.afterSlotRead p (passPin s.u)) := by
  rw [execCfgall, withPort_code, withCfg_nibble, if_neg (by omega), if_pos heven, slotRead_ready h]

/-- The state after the write micro-step of a slot: the word made from the latch is in the register (rules R66,
R100). -/
def State.afterSlotWrite (s : State) (p : Port) (n : Pin) (c : Nibble) : State :=
  (s.withSlotWord p n (packSlot s.drv.t (slotShift n) c)).issue
    ⟨.write, slotAddress (s.base p) n, packSlot s.drv.t (slotShift n) c⟩

/-- The odd micro-steps of CFGALL, the last of which completes it (rule R102). -/
theorem execCfgall_write {s : State} {p : Port} (h : Ready s p) (c : Nibble) (hu : s.u < 32) (hodd : s.u % 2 = 1) :
    execCfgall p.code (c.setWidth 8) s =
      .next (if s.u = 31 then (s.afterSlotWrite p (passPin s.u) c).complete .none
        else (s.afterSlotWrite p (passPin s.u) c).goto (s.u + 1)) := by
  rw [execCfgall, withPort_code, withCfg_nibble, if_neg (by omega), if_neg (by omega), slotWrite_ready h, andThen_next]
  rfl

/-- Settles O35: the checks, then the micro-steps of the pass of pin `u div 2` with its slot written out. -/
theorem cfgallMicroSteps : Obligations.CfgallMicroSteps := by
  refine ⟨decode_cfgall, fun s p port cfg _ => ⟨fun hport => ?_, fun hcfg => ?_⟩, fun s p c h hu => ?_⟩
  · exact withPort_illegal hport _
  · show execCfgall p.code cfg s = _
    rw [execCfgall, withPort_code, withCfg_illegal hcfg]
  · rw [← passPin_val hu]
    have hshift : 4 * (if (passPin s.u).val < 8 then (passPin s.u).val else (passPin s.u).val - 8) =
        slotShift (passPin s.u) := (slotShift_eq_four_mul _).symm
    simp only [hshift, ← slotAddress_eq]
    refine ⟨execCfgall_read h c hu, fun hodd => (execCfgall_write h c hu hodd).trans ?_⟩
    by_cases hlast : s.u = 31
    · simp only [hlast, if_true]
      rfl
    · simp only [hlast, if_false]
      rfl

/-! ### One slot configured: a read and a write of its register -/

/-- The state after the read and the write micro-step of a slot, before the sequencer moves on from the command: the
operation that rule R100 runs once and rule R102 once for each pin. -/
def State.configure (s : State) (p : Port) (n : Pin) (c : Nibble) : State :=
  ((s.afterSlotRead p n).afterSlotWrite p n c).goto s.u

theorem State.configure_ready {s : State} {p : Port} (h : Ready s p) (n : Pin) (c : Nibble) :
    Ready (s.configure p n c) p :=
  State.withSlotWord_ready (State.afterSlotRead_ready h n) p n _

theorem State.complete_ready {s : State} {p : Port} (h : Ready s p) (r : Response) : Ready (s.complete r) p := h

theorem State.goto_ready {s : State} {p : Port} (h : Ready s p) (u : Nat) : Ready (s.goto u) p := h

/-- The sequencer has no part in the operation. -/
theorem State.configure_complete (s : State) (p : Port) (n : Pin) (c : Nibble) (r : Response) :
    (s.complete r).configure p n c = (s.configure p n c).complete r := rfl

theorem State.configure_ports (s : State) (p : Port) (n : Pin) (c : Nibble) :
    (s.configure p n c).ports = (s.withSlotWord p n (packSlot (slotWord (s.block p) n) (slotShift n) c)).ports := rfl

theorem State.configure_trace_length (s : State) (p : Port) (n : Pin) (c : Nibble) :
    (s.configure p n c).trace.length = s.trace.length + 2 := by
  show ((s.trace ++ [_]) ++ [_]).length = _
  simp

/-- The slot of the pin holds the nibble, every other slot what it held (rule R101). -/
theorem State.configure_slotValue (s : State) (p q : Port) (n m : Pin) (c : Nibble) :
    (s.configure p n c).slotValue q m = if q = p ∧ m = n then c else s.slotValue q m :=
  (State.slotValue_congr (s.configure_ports p n c) q m).trans (slotValue_withSlotWord_packSlot s p q n m c)

/-- What a block holds besides the sixteen configuration slots. -/
def PortBlock.besideSlots (k : PortBlock) : Half × Bool × Bool := (k.odata, k.locked, k.clocked)

theorem State.withSlotWord_besideSlots (s : State) (p q : Port) (n : Pin) (w : Word) :
    ((s.withSlotWord p n w).block q).besideSlots = (s.block q).besideSlots := by
  unfold State.withSlotWord
  rw [State.setBlock_block]
  split
  · next hq =>
    subst hq
    unfold PortBlock.withSlotWord
    split <;> rfl
  · rfl

theorem State.configure_besideSlots (s : State) (p q : Port) (n : Pin) (c : Nibble) :
    ((s.configure p n c).block q).besideSlots = (s.block q).besideSlots :=
  State.withSlotWord_besideSlots (s.afterSlotRead p n) p q n _

theorem State.outputBit_congr {s t : State} {q : Port} (h : (t.block q).besideSlots = (s.block q).besideSlots)
    (m : Pin) : t.outputBit q m = s.outputBit q m :=
  congrArg (fun k : Half × Bool × Bool => k.1.getLsbD m.val) h

/-! ### The registers of the ports, known by their slots -/

/-- A word is its eight nibbles. -/
theorem word_eq_of_nibbles {x y : Word} (h : ∀ j, j < 8 → x.extractLsb' (4 * j) 4 = y.extractLsb' (4 * j) 4) :
    x = y := by
  apply BitVec.eq_of_getLsbD_eq
  intro i hi
  have hbit (v : Word) : (v.extractLsb' (4 * (i / 4)) 4).getLsbD (i % 4) = v.getLsbD i := by
    rw [BitVec.getLsbD_extractLsb', Nat.div_add_mod]
    simp [Nat.mod_lt]
  rw [← hbit x, ← hbit y, h _ (by omega)]

/-- A block is its sixteen slots and what it holds besides them (rules R13, R14, R19). -/
theorem PortBlock.eq_of_slots {k l : PortBlock} (hbeside : l.besideSlots = k.besideSlots)
    (hslots : ∀ n, (slotWord l n).extractLsb' (slotShift n) 4 = (slotWord k n).extractLsb' (slotShift n) 4) :
    l = k := by
  have hlo : l.cfglo = k.cfglo := word_eq_of_nibbles fun j hj => by
    have hslot := hslots ⟨j, by omega⟩
    rwa [slotShift_eq_four_mul, slotIndex_of_lt hj, slotWord, slotWord, if_pos hj, if_pos hj] at hslot
  have hhi : l.cfghi = k.cfghi := word_eq_of_nibbles fun j hj => by
    have hslot := hslots ⟨j + 8, by omega⟩
    have hnot : ¬ j + 8 < 8 := by omega
    rwa [slotShift_eq_four_mul, slotIndex_of_le (Nat.le_add_left 8 j), Nat.add_sub_cancel, slotWord, slotWord,
      if_neg hnot, if_neg hnot] at hslot
  obtain ⟨hodata, hlocked, hclocked⟩ : l.odata = k.odata ∧ l.locked = k.locked ∧ l.clocked = k.clocked := by
    simpa [besideSlots] using hbeside
  calc l = ⟨l.cfglo, l.cfghi, l.odata, l.locked, l.clocked⟩ := rfl
    _ = ⟨k.cfglo, k.cfghi, k.odata, k.locked, k.clocked⟩ := by rw [hlo, hhi, hodata, hlocked, hclocked]
    _ = k := rfl

/-- The registers of two states agree when all slots and everything besides them do. -/
theorem State.ports_eq_of_slots {s t : State} (hbeside : ∀ q, (t.block q).besideSlots = (s.block q).besideSlots)
    (hslots : ∀ q n, t.slotValue q n = s.slotValue q n) : t.ports = s.ports := by
  have hblock (q : Port) : t.ports.get q = s.ports.get q := PortBlock.eq_of_slots (hbeside q) (hslots q)
  have ha : t.ports.a = s.ports.a := hblock .A
  have hb : t.ports.b = s.ports.b := hblock .B
  have hc : t.ports.c = s.ports.c := hblock .C
  calc t.ports = ⟨t.ports.a, t.ports.b, t.ports.c⟩ := rfl
    _ = ⟨s.ports.a, s.ports.b, s.ports.c⟩ := by rw [ha, hb, hc]
    _ = s.ports := rfl

/-! ### CFGPIN -/

/-- The CFGPIN of a legal port, pin and PinConfig, undisturbed (rule R100). -/
theorem micro_cfgpin {s : State} {p : Port} (h : Ready s p) (hu : s.u = 0) (n : Pin) (c : Nibble) :
    micro (.cfgpin p.code (BitVec.ofNat 8 n.val) (c.setWidth 8)) 2 s = .next ((s.configure p n c).complete .none) := by
  have hread : exec (.cfgpin p.code (BitVec.ofNat 8 n.val) (c.setWidth 8)) s = .next (s.afterSlotRead p n) :=
    execCfgpin_read h n c hu
  have hwrite : exec (.cfgpin p.code (BitVec.ofNat 8 n.val) (c.setWidth 8)) (s.afterSlotRead p n) =
      .next ((s.configure p n c).complete .none) :=
    execCfgpin_write (State.afterSlotRead_ready h n) n c (congrArg (· + 1) hu)
  rw [micro, hread, andThen_next, micro, hwrite, andThen_next, micro]

/-- Pins share a configuration register exactly when they are on one side of 8 (rule R65). -/
theorem slotReg_eq_iff {n m : Pin} : slotReg m = slotReg n ↔ (m.val < 8 ↔ n.val < 8) := by
  unfold slotReg
  by_cases hm : m.val < 8 <;> by_cases hn : n.val < 8 <;> simp [hm, hn]

theorem slotShift_eq_four_mul_mod (n : Pin) : slotShift n = 4 * (n.val % 8) := by
  rw [slotShift_eq_four_mul]
  unfold slotIndex
  split <;> omega

/-- The slots of a port whose register of pin `n` is written: those of the other register stay. -/
theorem State.withSlotWord_slotValue (s : State) (p : Port) (n m : Pin) (w : Word) :
    (s.withSlotWord p n w).slotValue p m =
      if slotReg m = slotReg n then w.extractLsb' (slotShift m) 4 else s.slotValue p m := by
  unfold State.slotValue State.withSlotWord
  rw [State.setBlock_block_same, slotWord_withSlotWord]
  split <;> rfl

/-- Settles O33: the write packs one slot of the latch, and over the whole command the latch is the register. -/
theorem cfgpinPreservesOtherPins : Obligations.CfgpinPreservesOtherPins := by
  refine ⟨fun s p n c h hu => ⟨_, execCfgpin_write h n c hu, ?_, fun m hne => ?_⟩, fun s p n c h hu => ?_⟩
  · refine (State.withSlotWord_slotValue s p n n _).trans ?_
    rw [if_pos rfl, packSlot_slot, if_pos rfl]
  · refine (State.withSlotWord_slotValue s p n m _).trans ?_
    simp only [← slotReg_eq_iff, ← slotShift_eq_four_mul_mod]
    split
    · next hreg => rw [packSlot_slot, if_neg fun hshift => hne (pin_eq_of_slot hreg hshift)]
    · rfl
  · have hslot := fun q m => s.configure_slotValue p q n m c
    refine ⟨_, micro_cfgpin h hu n c, (hslot p n).trans (if_pos ⟨rfl, rfl⟩), fun q m hne => ?_, fun q m => ?_, rfl,
      rfl, rfl⟩
    · exact (hslot q m).trans (if_neg fun ⟨hq, hm⟩ => hne (by rw [hq, hm]))
    · exact State.outputBit_congr (s.configure_besideSlots p q n c) m

/-- Two different slots can be configured in either order (rule R101). -/
theorem State.configure_ports_comm (s : State) (p : Port) {n m : Pin} (hne : n ≠ m) (c d : Nibble) :
    ((s.configure p n c).configure p m d).ports = ((s.configure p m d).configure p n c).ports := by
  apply State.ports_eq_of_slots
  · intro q
    simp only [State.configure_besideSlots]
  · intro q k
    simp only [State.configure_slotValue]
    split_ifs with hm hn
    · exact absurd (hn.2.symm.trans hm.2) hne
    all_goals rfl

/-- One CFGPIN and the rest of a sequence of commands. -/
theorem micros_cfgpin_cons {s : State} {p : Port} (h : Ready s p) (hu : s.u = 0) (n : Pin) (c : Nibble)
    (rest : List (Instr × Nat)) :
    micros ((.cfgpin p.code (BitVec.ofNat 8 n.val) (c.setWidth 8), 2) :: rest) s =
      micros rest ((s.configure p n c).complete .none) := by
  rw [micros, micro_cfgpin h hu, andThen_next]

/-- Settles O34: each order is the two slots configured in that order. -/
theorem cfgpinOfDifferentPinsCommute : Obligations.CfgpinOfDifferentPinsCommute := by
  intro s p n m c d h hu hne
  have hrun (a b : Pin) (x y : Nibble) :
      micros [(.cfgpin p.code (BitVec.ofNat 8 a.val) (x.setWidth 8), 2),
        (.cfgpin p.code (BitVec.ofNat 8 b.val) (y.setWidth 8), 2)] s =
        .next ((((s.configure p a x).complete .none).configure p b y).complete .none) := by
    have hready := State.complete_ready (State.configure_ready h a x) .none
    rw [micros_cfgpin_cons h hu, micros_cfgpin_cons hready rfl, micros]
  exact ⟨_, _, hrun n m c d, hrun m n d c, s.configure_ports_comm p hne c d⟩

/-! ### All pins configured, one after the other -/

/-- The slots of the listed pins configured with one nibble, in the order of the list. -/
def State.configureAll (s : State) (p : Port) (c : Nibble) (pins : List Pin) : State :=
  pins.foldl (fun t n => t.configure p n c) s

theorem State.configureAll_append_singleton (s : State) (p : Port) (c : Nibble) (pins : List Pin) (n : Pin) :
    s.configureAll p c (pins ++ [n]) = (s.configureAll p c pins).configure p n c :=
  List.foldl_append

theorem State.configureAll_ready {s : State} {p : Port} (h : Ready s p) (c : Nibble) (pins : List Pin) :
    Ready (s.configureAll p c pins) p := by
  induction pins generalizing s with
  | nil => exact h
  | cons n pins ih => exact ih (State.configure_ready h n c)

theorem State.configureAll_complete (s : State) (p : Port) (c : Nibble) (pins : List Pin) (r : Response) :
    (s.complete r).configureAll p c pins = (s.configureAll p c pins).complete r := by
  induction pins generalizing s with
  | nil => rfl
  | cons n pins ih => exact ih (s.configure p n c)

theorem State.configureAll_trace_length (s : State) (p : Port) (c : Nibble) (pins : List Pin) :
    (s.configureAll p c pins).trace.length = s.trace.length + 2 * pins.length := by
  induction pins generalizing s with
  | nil => rfl
  | cons n pins ih =>
    refine (ih (s.configure p n c)).trans ?_
    rw [State.configure_trace_length, List.length_cons]
    omega

/-- What configuring one pin leaves, configuring a list of them leaves. -/
theorem State.configureAll_preserves {α : Type} {f : State → α} {p : Port} {c : Nibble}
    (hf : ∀ s n, f (s.configure p n c) = f s) (s : State) (pins : List Pin) : f (s.configureAll p c pins) = f s := by
  induction pins generalizing s with
  | nil => rfl
  | cons n pins ih => exact (ih (s.configure p n c)).trans (hf s n)

theorem State.configureAll_cp (s : State) (p : Port) (c : Nibble) (pins : List Pin) :
    (s.configureAll p c pins).cp = s.cp :=
  State.configureAll_preserves (f := State.cp) (fun _ _ => rfl) s pins

theorem State.configureAll_besideSlots (s : State) (p q : Port) (c : Nibble) (pins : List Pin) :
    ((s.configureAll p c pins).block q).besideSlots = (s.block q).besideSlots :=
  State.configureAll_preserves (f := fun t => (t.block q).besideSlots)
    (fun t n => t.configure_besideSlots p q n c) s pins

/-- The slots of the listed pins hold the nibble, every other slot what it held. -/
theorem State.configureAll_slotValue (s : State) (p q : Port) (c : Nibble) (pins : List Pin) (m : Pin) :
    (s.configureAll p c pins).slotValue q m = if q = p ∧ m ∈ pins then c else s.slotValue q m := by
  induction pins generalizing s with
  | nil => simp [State.configureAll]
  | cons n pins ih =>
    refine (ih (s.configure p n c)).trans ?_
    rw [State.configure_slotValue]
    by_cases hq : q = p <;> by_cases hm : m = n <;> simp [hq, hm]

/-- CFGPIN commands with one nibble, run one after the other, configure their pins in that order (rule R100). -/
theorem micros_cfgpin {s : State} {p : Port} (h : Ready s p) (hu : s.u = 0) (c : Nibble) (pins : List Pin) :
    ∃ t, micros (pins.map fun n => (.cfgpin p.code (BitVec.ofNat 8 n.val) (c.setWidth 8), 2)) s = .next t ∧
      t.ports = (s.configureAll p c pins).ports ∧ t.drv = (s.configureAll p c pins).drv ∧
      t.trace = (s.configureAll p c pins).trace := by
  induction pins generalizing s with
  | nil => exact ⟨s, rfl, rfl, rfl, rfl⟩
  | cons n pins ih =>
    obtain ⟨t, hrun, hports, hdrv, htrace⟩ := 
      ih (State.complete_ready (State.configure_ready h n c) .none) rfl
    rw [State.configureAll_complete] at hports hdrv htrace
    exact ⟨t, (micros_cfgpin_cons h hu n c _).trans hrun, hports, hdrv, htrace⟩

/-! ### CFGALL -/

/-- The first `k` pins in increasing order, each as the pin of its pass of CFGALL (rule R102). -/
def firstPins (k : Nat) : List Pin := (List.range k).map fun i => passPin (2 * i)

theorem firstPins_succ (k : Nat) : firstPins (k + 1) = firstPins k ++ [passPin (2 * k)] := by
  rw [firstPins, List.range_succ, List.map_append]
  rfl

theorem mem_firstPins_sixteen (m : Pin) : m ∈ firstPins 16 := by
  revert m; decide

theorem micro_add (i : Instr) (a b : Nat) (s : State) : micro i (a + b) s = andThen (micro i a s) (micro i b) := by
  induction a generalizing s with
  | zero => rw [Nat.zero_add, micro, andThen_next]
  | succ a ih =>
    rw [Nat.succ_add, micro, micro]
    cases hexec : exec i s with
    | next t => exact ih t
    | fault f => rfl
    | refused r => rfl

theorem passPin_succ (k : Nat) : passPin (2 * k + 1) = passPin (2 * k) := by
  have hhalf : (2 * k + 1) / 2 = 2 * k / 2 := by omega
  simp only [passPin, hhalf]

/-- The two micro-steps of one pass of CFGALL (rule R102). -/
theorem micro_cfgall_pass {s : State} {p : Port} {k : Nat} (h : Ready s p) (hk : k < 16) (hu : s.u = 2 * k)
    (c : Nibble) :
    micro (.cfgall p.code (c.setWidth 8)) 2 s =
      .next (if k = 15 then (s.configure p (passPin (2 * k)) c).complete .none
        else (s.configure p (passPin (2 * k)) c).goto (2 * (k + 1))) := by
  have hread : exec (.cfgall p.code (c.setWidth 8)) s = .next (s.afterSlotRead p (passPin s.u)) :=
    execCfgall_read h c (by omega) (by omega)
  have hu' : (s.afterSlotRead p (passPin s.u)).u = 2 * k + 1 := congrArg (· + 1) hu
  have hwrite : exec (.cfgall p.code (c.setWidth 8)) (s.afterSlotRead p (passPin s.u)) = _ :=
    execCfgall_write (State.afterSlotRead_ready h (passPin s.u)) c (by omega) (by omega)
  have hlast : 2 * k + 1 = 31 ↔ k = 15 := by omega
  rw [hu', passPin_succ, if_congr hlast rfl rfl] at hwrite
  rw [micro, hread, andThen_next, micro, hwrite, andThen_next, micro, hu]
  rfl

/-- The passes that CFGALL has made have configured their pins. -/
theorem micro_cfgall_passes {s : State} {p : Port} (h : Ready s p) (hu : s.u = 0) (c : Nibble) {k : Nat}
    (hk : k ≤ 16) :
    micro (.cfgall p.code (c.setWidth 8)) (2 * k) s =
      .next (if k = 16 then (s.configureAll p c (firstPins 16)).complete .none
        else (s.configureAll p c (firstPins k)).goto (2 * k)) := by
  induction k with
  | zero =>
    show Host.Outcome.next s = .next (s.goto 0)
    rw [← hu]
    rfl
  | succ k ih =>
    have hready := State.goto_ready (State.configureAll_ready h c (firstPins k)) (2 * k)
    rw [Nat.mul_succ, micro_add, ih (by omega), if_neg (by omega), andThen_next,
      micro_cfgall_pass hready (by omega) rfl]
    by_cases hlast : k = 15
    · subst hlast
      rw [if_pos rfl, if_pos rfl, firstPins_succ 15, State.configureAll_append_singleton]
      rfl
    · rw [if_neg hlast, if_neg (by omega), firstPins_succ, State.configureAll_append_singleton]
      rfl

/-- A whole CFGALL, undisturbed, configures the sixteen pins in increasing order (rule R102). -/
theorem micro_cfgall {s : State} {p : Port} (h : Ready s p) (hu : s.u = 0) (c : Nibble) :
    micro (.cfgall p.code (c.setWidth 8)) 32 s = .next ((s.configureAll p c (firstPins 16)).complete .none) :=
  micro_cfgall_passes h hu c (k := 16) (Nat.le_refl 16)

/-- The word that holds a nibble in all eight slots (rule R103). -/
theorem repeated_slot (c : Nibble) (n : Pin) :
    (c.setWidth 32 * 0x11111111#32).extractLsb' (slotShift n) 4 = c := by
  revert c n; decide

/-- Both configuration registers of a port replaced by one word: its slots, and those of the other ports. -/
theorem State.setBlock_bothConfig_slotValue (s : State) (p q : Port) (w : Word) (m : Pin) :
    (s.setBlock p { s.block p with cfglo := w, cfghi := w }).slotValue q m =
      if q = p then w.extractLsb' (slotShift m) 4 else s.slotValue q m := by
  unfold State.slotValue
  rw [State.setBlock_block]
  split
  · unfold slotWord
    rw [ite_self]
  · rfl

theorem State.setBlock_bothConfig_besideSlots (s : State) (p q : Port) (w : Word) :
    ((s.setBlock p { s.block p with cfglo := w, cfghi := w }).block q).besideSlots = (s.block q).besideSlots := by
  rw [State.setBlock_block]
  split
  · next hq => rw [hq]; rfl
  · rfl

/-- With every pin configured, both registers hold the nibble in all slots (rule R103). -/
theorem State.configureAll_firstPins_ports (s : State) (p : Port) (c : Nibble) :
    (s.configureAll p c (firstPins 16)).ports =
      (s.setBlock p { s.block p with
        cfglo := c.setWidth 32 * 0x11111111#32, cfghi := c.setWidth 32 * 0x11111111#32 }).ports := by
  apply State.ports_eq_of_slots
  · intro q
    rw [State.configureAll_besideSlots, State.setBlock_bothConfig_besideSlots]
  · intro q m
    rw [State.configureAll_slotValue, State.setBlock_bothConfig_slotValue, repeated_slot]
    exact if_congr (and_iff_left (mem_firstPins_sixteen m)) rfl rfl

/-- Settles O36: every pin of the port is among the sixteen, so every slot holds the nibble. -/
theorem cfgallFillsBothRegisters : Obligations.CfgallFillsBothRegisters := by
  intro s p c h hu
  refine ⟨_, micro_cfgall h hu c, s.configureAll_firstPins_ports p c, ?_, rfl, ?_⟩
  · exact congrArg (· + 1) (s.configureAll_cp p c (firstPins 16))
  · exact s.configureAll_trace_length p c (firstPins 16)

/-- Settles O37: both run the sixteen configurations in increasing order of the pins. -/
theorem cfgallIsSixteenCfgpins : Obligations.CfgallIsSixteenCfgpins := by
  intro s p c h hu
  obtain ⟨t, hrun, hports, hdrv, htrace⟩ := micros_cfgpin h hu c (firstPins 16)
  exact ⟨_, t, micro_cfgall h hu c, hrun, hports.symm, hdrv.symm, htrace.symm⟩

end Sys2Proof.Machine

/-! SUPPORT. The pin level control commands (rules R110 to R114): INIT as the configuration of one slot between the
selection of the port and the store of the masks, and SETON and SETOFF as one command with the level a parameter. -/

namespace Sys2Proof.Machine

/-! ### INIT -/

/-- The control word of INIT (rule R72, table rows). -/
theorem decode_initPin (port pin : Byte) (w : Word) :
    decode ⟨0x06000000#32 ||| port.setWidth 32 <<< 16 ||| pin.setWidth 32 <<< 8, w⟩ = .ok (.initPin port pin) := by
  rw [BitVec.or_assoc, BitVec.or_comm (port.setWidth 32 <<< 16), ← BitVec.or_assoc]
  exact decode_portWord (op := 0x06) (sel := pin) rfl

theorem State.select_ready {s : State} {p : Port} (h : Ready s p) (ref : Word) : Ready (s.select ref) p := h

/-- The first micro-step of INIT: the read of the slot, after the port is selected (rule R110). -/
theorem execInit_read {s : State} {p : Port} (h : Ready s p) (n : Pin) (hu : s.u = 0) :
    execInit p.code (BitVec.ofNat 8 n.val) s = .next ((s.select (s.base p)).afterSlotRead p n) := by
  simp only [execInit, withPort_code, withPin_val, hu]
  exact slotRead_ready (State.select_ready h (s.base p)) n

/-- The second micro-step of INIT: the write of the slot with the default PinConfig, then the masks (rule R110). -/
theorem execInit_write {s : State} {p : Port} (h : Ready s p) (n : Pin) (hu : s.u = 1) (href : s.drv.ref = s.base p) :
    execInit p.code (BitVec.ofNat 8 n.val) s =
      .next (((s.afterSlotWrite p n defaultCfg).storeMasks n).complete .none) := by
  simp only [execInit, withPort_code, withPin_val, hu, href, slotWrite_ready h, andThen_next]
  rfl

/-- Settles O38: the checks one by one, then the two micro-steps with the slot of the pin written out. -/
theorem initMicroSteps : Obligations.InitMicroSteps := by
  refine ⟨decode_initPin, fun s p port pin _ hchecked => ⟨fun hport => ?_, fun hpin => ?_⟩, fun s p n h => ?_⟩
  · exact withPort_illegal hport _
  · show execInit p.code pin s = _
    rw [execInit, withPort_code, withPin_illegal hpin, misuse_unchecked hchecked]
  · have hshift : 4 * (if n.val < 8 then n.val else n.val - 8) = slotShift n := (slotShift_eq_four_mul n).symm
    simp only [hshift, ← slotAddress_eq]
    refine ⟨fun hu => (execInit_read h n hu).trans ?_, fun hu href => execInit_write h n hu href⟩
    rw [State.afterSlotRead, State.select_u, hu]
    rfl

/-- The state after a whole INIT: the port selected, the pin's slot configured, the masks stored (rule R110). -/
def State.afterInit (s : State) (p : Port) (n : Pin) : State :=
  (((s.select (s.base p)).configure p n defaultCfg).storeMasks n).complete .none

/-- The INIT of a legal port and pin, undisturbed (rule R110). -/
theorem micro_initPin {s : State} {p : Port} (h : Ready s p) (hu : s.u = 0) (n : Pin) :
    micro (.initPin p.code (BitVec.ofNat 8 n.val)) 2 s = .next (s.afterInit p n) := by
  have hread : exec (.initPin p.code (BitVec.ofNat 8 n.val)) s = .next ((s.select (s.base p)).afterSlotRead p n) :=
    execInit_read h n hu
  have hready := State.afterSlotRead_ready (State.select_ready h (s.base p)) n
  have hwrite : exec (.initPin p.code (BitVec.ofNat 8 n.val)) ((s.select (s.base p)).afterSlotRead p n) =
      .next (s.afterInit p n) :=
    execInit_write hready n (congrArg (· + 1) hu) rfl
  rw [micro, hread, andThen_next, micro, hwrite, andThen_next, micro]

theorem State.afterInit_initedFor (s : State) (p : Port) (n : Pin) : InitedFor (s.afterInit p n) p n :=
  ⟨rfl, rfl, rfl, rfl⟩

theorem State.afterInit_ready {s : State} {p : Port} (h : Ready s p) (n : Pin) : Ready (s.afterInit p n) p :=
  State.configure_ready (State.select_ready h (s.base p)) n defaultCfg

/-- The slot of the pin holds the default PinConfig, every other slot what it held (rules R101, R110). -/
theorem State.afterInit_slotValue (s : State) (p q : Port) (n m : Pin) :
    (s.afterInit p n).slotValue q m = if q = p ∧ m = n then defaultCfg else s.slotValue q m :=
  (s.select (s.base p)).configure_slotValue p q n m defaultCfg

/-- INIT does not choose the level (rules R28, R110). -/
theorem State.afterInit_outputBit (s : State) (p q : Port) (n m : Pin) :
    (s.afterInit p n).outputBit q m = s.outputBit q m :=
  State.outputBit_congr (s := s) ((s.select (s.base p)).configure_besideSlots p q n defaultCfg) m

/-- The two transactions of INIT (rule R110). -/
theorem State.afterInit_trace (s : State) (p : Port) (n : Pin) :
    (s.afterInit p n).trace = s.trace ++ [⟨.read, slotAddress (s.base p) n, slotWord (s.block p) n⟩,
      ⟨.write, slotAddress (s.base p) n, packSlot (slotWord (s.block p) n) (slotShift n) defaultCfg⟩] :=
  List.append_assoc ..

/-- Settles O39: one slot is configured, and the masks are stored beside the registers. -/
theorem initConfiguresAndStoresMasks : Obligations.InitConfiguresAndStoresMasks := by
  intro s p n h hu
  have hslot := fun q m => s.afterInit_slotValue p q n m
  refine ⟨_, micro_initPin h hu n, s.afterInit_initedFor p n, (hslot p n).trans (if_pos ⟨rfl, rfl⟩), fun q m hne => ?_,
    fun q m => s.afterInit_outputBit p q n m, rfl, rfl⟩
  exact (hslot q m).trans (if_neg fun ⟨hq, hm⟩ => hne (by rw [hq, hm]))

/-! ### SETON and SETOFF as one command -/

/-- The command that gives the initialised pin an output bit: SETOFF for 1, SETON for 0 (rule R115). -/
def levelInstr (b : Bool) : Instr := if b then .setoff else .seton

/-- The word that a level-set command takes from the driver: the off mask for 1, the on mask for 0 (rules R111,
R112). -/
theorem exec_levelInstr_eq (b : Bool) (s : State) :
    exec (levelInstr b) s = levelCommand (if b then s.drv.offMask else s.drv.onMask) s := by
  cases b <;> rfl

/-- The state after a level-set command: the pin has its bit, by one write to SETRST (rules R111, R112). -/
def State.afterLevel (s : State) (p : Port) (n : Pin) (b : Bool) : State :=
  ((s.withOdata p (pinWritten (s.block p).odata n b)).issue
    ⟨.write, s.base p + 0x10#32, pinWord n b⟩).complete .none

theorem exec_levelInstr {s : State} {p : Port} {n : Pin} (hi : InitedFor s p n) (h : Ready s p) (hu : s.u = 0)
    (b : Bool) : exec (levelInstr b) s = .next (s.afterLevel p n b) := by
  have ⟨_, _, hoff, hon⟩ := hi
  rw [exec_levelInstr_eq, hoff, hon]
  exact levelCommand_pinWord hi h hu

/-- A level-set command before INIT (rules R111, R112, R131). -/
theorem exec_levelInstr_notInited {s : State} (hu : s.u = 0) (hinited : s.drv.inited = false)
    (hchecked : s.par.checked = false) (b : Bool) : exec (levelInstr b) s = .fault .notInitialized := by
  rw [exec_levelInstr_eq, levelCommand, oneMicroStep, if_pos hu, whenInited, hinited]
  exact misuse_unchecked hchecked _ _

@[simp] theorem lowHalf_onMask (n : Pin) : lowHalf (1#32 <<< (n.val + 16)) = 0#16 := by
  revert n; decide

@[simp] theorem highHalf_onMask (n : Pin) : highHalf (1#32 <<< (n.val + 16)) = 1#16 <<< n.val := by
  revert n; decide

theorem pinWritten_false (old : Half) (n : Pin) : pinWritten old n false = old &&& ~~~(1#16 <<< n.val) := by
  simp [pinWritten, pinWord, afterSetrst]

theorem pinWritten_true (old : Half) (n : Pin) : pinWritten old n true = old ||| (1#16 <<< n.val) :=
  (afterSetrst_of_highHalf_zero (highHalf_offMask n) .setWins 0 old).trans (by rw [lowHalf_offMask])

/-- Settles O40: the level-set command with bit 0. -/
theorem setonClearsTheOutputBit : Obligations.SetonClearsTheOutputBit := by
  refine ⟨decodeOfEncode .seton, fun s hu hinited hchecked => exec_levelInstr_notInited hu hinited hchecked false,
    fun s p n hi h hu => ?_⟩
  rw [← pinWritten_false]
  exact exec_levelInstr hi h hu false

/-- Settles O41: the level-set command with bit 1. -/
theorem setoffSetsTheOutputBit : Obligations.SetoffSetsTheOutputBit := by
  refine ⟨decodeOfEncode .setoff, fun s hu hinited hchecked => exec_levelInstr_notInited hu hinited hchecked true,
    fun s p n hi h hu => ?_⟩
  rw [← pinWritten_true]
  exact exec_levelInstr hi h hu true

/-! ### Level-set commands in sequence -/

/-- A level-set command keeps what the next one needs. -/
theorem State.afterLevel_initedFor {s : State} {p : Port} {n : Pin} (hi : InitedFor s p n) (b : Bool) :
    InitedFor (s.afterLevel p n b) p n := hi

theorem State.afterLevel_ready {s : State} {p : Port} (h : Ready s p) (n : Pin) (b : Bool) :
    Ready (s.afterLevel p n b) p := State.withOdata_ready (p := p) h _

theorem State.afterLevel_trace (s : State) (p : Port) (n : Pin) (b : Bool) :
    (s.afterLevel p n b).trace = s.trace ++ [⟨.write, s.base p + 0x10#32, pinWord n b⟩] := rfl

/-- One level-set command and the rest of a sequence of commands. -/
theorem micros_levelInstr_cons {s : State} {p : Port} {n : Pin} (hi : InitedFor s p n) (h : Ready s p)
    (hu : s.u = 0) (b : Bool) (rest : List (Instr × Nat)) :
    micros ((levelInstr b, 1) :: rest) s = micros rest (s.afterLevel p n b) := by
  rw [micros, micro, exec_levelInstr hi h hu, andThen_next, micro, andThen_next]

/-- INIT, then SETON, then SETOFF (rule R113). -/
theorem micros_init_on_off {s : State} {p : Port} (h : Ready s p) (hu : s.u = 0) (n : Pin) :
    micros [(.initPin p.code (BitVec.ofNat 8 n.val), 2), (levelInstr false, 1), (levelInstr true, 1)] s =
      .next (((s.afterInit p n).afterLevel p n false).afterLevel p n true) := by
  have hi := s.afterInit_initedFor p n
  have hready := State.afterInit_ready h n
  rw [micros, micro_initPin h hu, andThen_next, micros_levelInstr_cons hi hready rfl,
    micros_levelInstr_cons (State.afterLevel_initedFor hi false) (State.afterLevel_ready hready n false) rfl, micros]

/-- Settles O43: two transactions of the configured slot, then one for each level-set command. -/
theorem initOnOffTransactions : Obligations.InitOnOffTransactions := by
  refine ⟨fun n => ⟨pinWord_set_ne_reset n, offMaskOf_and_onMaskOf n⟩, fun s p n h hu => ?_⟩
  simp only [← slotAddress_eq]
  refine ⟨_, slotWord (s.block p) n, packSlot (slotWord (s.block p) n) (slotShift n) defaultCfg,
    micros_init_on_off h hu n, ?_⟩
  rw [State.afterLevel_trace, State.afterLevel_trace, State.afterInit_trace, List.append_assoc, List.append_assoc]
  rfl

/-! ### A level-set command repeated -/

theorem pinWritten_of_bit {old : Half} {n : Pin} {b : Bool} (h : old.getLsbD n.val = b) : pinWritten old n b = old := by
  refine half_ext fun k => ?_
  rw [pinWritten_getLsbD]
  split
  · next hk => rw [hk, h]
  · rfl

theorem State.afterLevel_outputBit_same (s : State) (p : Port) (n : Pin) (b : Bool) :
    (s.afterLevel p n b).outputBit p n = b := by
  show (s.withOdata p _).outputBit p n = b
  rw [State.withOdata_outputBit, if_pos rfl, pinWritten_getLsbD, if_pos rfl]

/-- The write changes nothing where the pin has the bit already (rule R111, corner cases). -/
theorem State.afterLevel_ports_of_bit {s : State} {p : Port} {n : Pin} {b : Bool} (h : s.outputBit p n = b) :
    (s.afterLevel p n b).ports = s.ports := by
  show s.ports.set p { s.block p with odata := pinWritten (s.block p).odata n b } = s.ports
  rw [pinWritten_of_bit h]
  exact s.ports.set_get_self p

/-- Where the pin has the bit already, any number of the commands repeat the write and change no register. -/
theorem micros_levelInstr_of_bit {s : State} {p : Port} {n : Pin} {b : Bool} (hi : InitedFor s p n) (h : Ready s p)
    (hu : s.u = 0) (hbit : s.outputBit p n = b) (k : Nat) :
    ∃ t, micros (List.replicate k (levelInstr b, 1)) s = .next t ∧ t.ports = s.ports ∧ t.drv = s.drv ∧
      t.trace = s.trace ++ List.replicate k ⟨.write, s.base p + 0x10#32, pinWord n b⟩ := by
  induction k generalizing s with
  | zero => exact ⟨s, rfl, rfl, rfl, (List.append_nil _).symm⟩
  | succ k ih =>
    obtain ⟨t, hrun, hports, hdrv, htrace⟩ := ih (State.afterLevel_initedFor hi b) (State.afterLevel_ready h n b) rfl
      (s.afterLevel_outputBit_same p n b)
    refine ⟨t, (micros_levelInstr_cons hi h hu b _).trans hrun, hports.trans (State.afterLevel_ports_of_bit hbit), hdrv,
      htrace.trans ?_⟩
    exact List.append_assoc ..

/-- The first command gives the pin its bit; the others find it there. -/
theorem levelInstr_repeated {s : State} {p : Port} {n : Pin} (hi : InitedFor s p n) (h : Ready s p) (hu : s.u = 0)
    (b : Bool) (k : Nat) :
    ∃ t, micros (List.replicate (k + 1) (levelInstr b, 1)) s = .next t ∧ t.ports = (s.afterLevel p n b).ports ∧
      t.drv = s.drv ∧
      t.trace = s.trace ++ List.replicate (k + 1) ⟨.write, s.base p + 0x10#32, pinWord n b⟩ := by
  obtain ⟨t, hrun, hports, hdrv, htrace⟩ := micros_levelInstr_of_bit (State.afterLevel_initedFor hi b)
    (State.afterLevel_ready h n b) rfl (s.afterLevel_outputBit_same p n b) k
  exact ⟨t, (micros_levelInstr_cons hi h hu b _).trans hrun, hports, hdrv, htrace.trans (List.append_assoc ..)⟩

/-- Settles O44: both commands are the level-set command, with bit 0 and with bit 1. -/
theorem levelCommandsAreIdempotent : Obligations.LevelCommandsAreIdempotent := by
  intro s p n i hi h hu hcmd
  obtain ⟨b, rfl⟩ : ∃ b, i = levelInstr b := hcmd.elim (⟨false, ·⟩) (⟨true, ·⟩)
  exact ⟨_, _, exec_levelInstr hi h hu b, rfl, rfl, levelInstr_repeated hi h hu b⟩

end Sys2Proof.Machine

/-! SUPPORT. The waveform commands (rules R120 to R123) at this hardware's parameters: each micro-step of RUNFAST and of
RUNDIAG, and what any number of micro-steps of a loop that only writes output bits has done. -/

namespace Sys2Proof.Machine

/-! ### A loop of output writes -/

/-- The state after one micro-step of a waveform loop: the output bits of one port replaced, by one transaction. -/
def State.afterPulse (s : State) (p : Port) (o : Half) (x : Transaction) (u : Nat) : State :=
  ((s.withOdata p o).issue x).goto u

/-- After `k` micro-steps of a loop of `len` micro-steps, begun in `s`, whose micro-step `j` issues the transaction
`x j` and touches nothing but output bits (rules R122, R123). -/
structure LoopRun (s : State) (x : Nat → Transaction) (len k : Nat) (t : State) : Prop where
  par : t.par = s.par
  ready : ∀ p, Ready s p → Ready t p
  cp : t.cp = s.cp
  u : t.u = k % len
  drv : t.drv = s.drv
  trace : t.trace = s.trace ++ (List.range k).map x
  slots : ∀ q m, t.slotValue q m = s.slotValue q m

theorem LoopRun.start {s : State} (hu : s.u = 0) (x : Nat → Transaction) (len : Nat) : LoopRun s x len 0 s where
  par := rfl
  ready _ h := h
  cp := rfl
  u := by rw [hu, Nat.zero_mod]
  drv := rfl
  trace := (List.append_nil _).symm
  slots _ _ := rfl

theorem LoopRun.pulse {s t : State} {x : Nat → Transaction} {len k : Nat} (h : LoopRun s x len k t) (p : Port)
    (o : Half) {y : Transaction} {u : Nat} (hy : y = x k) (hu : u = (k + 1) % len) :
    LoopRun s x len (k + 1) (t.afterPulse p o y u) where
  par := h.par
  ready q hq := State.withOdata_ready (p := p) (h.ready q hq) o
  cp := h.cp
  u := hu
  drv := h.drv
  trace := by
    change t.trace ++ [y] = _
    rw [h.trace, hy, List.range_succ, List.map_append, List.append_assoc]
    rfl
  slots q m := (State.withOdata_slotValue t p q o m).trans (h.slots q m)

theorem LoopRun.base {s t : State} {x : Nat → Transaction} {len k : Nat} (h : LoopRun s x len k t) (p : Port) :
    t.base p = s.base p := by
  rw [State.base, State.base, h.par]

/-- What holds at the start, and one micro-step more brings to the next count, holds after every number of
micro-steps; in particular none of them stops. -/
theorem micro_reaches {i : Instr} {s : State} {P : Nat → State → Prop} (hstart : P 0 s)
    (hstep : ∀ k t, P k t → ∃ t', exec i t = .next t' ∧ P (k + 1) t') (k : Nat) :
    ∃ t, micro i k s = .next t ∧ P k t := by
  induction k with
  | zero => exact ⟨s, rfl, hstart⟩
  | succ k ih =>
    obtain ⟨t, hrun, ht⟩ := ih
    obtain ⟨t', hexec, ht'⟩ := hstep k t ht
    exact ⟨t', by rw [micro_add, hrun, andThen_next, micro, hexec, andThen_next, micro], ht'⟩

/-! ### The micro-steps of RUNFAST -/

/-- RUNFAST before INIT (rules R120, R131). -/
theorem exec_runfast_notInited {s : State} (hu : s.u = 0) (hinited : s.drv.inited = false)
    (hchecked : s.par.checked = false) : exec .runfast s = .fault .notInitialized := by
  change execRunfast s = _
  simp only [execRunfast, hu, whenInited, hinited]
  exact misuse_unchecked hchecked _ _

/-- Settles O46: the fast reset word of this hardware is the off mask, whose low half is the bit of the pin. -/
theorem runfastMicroSteps : Obligations.RunfastMicroSteps := by
  refine ⟨decodeOfEncode .runfast, fun s => exec_runfast_notInited, fun s p n hi h hword =>
    ⟨fun hu => ?_, exec_runfast_set hi h⟩⟩
  have ⟨_, _, hoff, _⟩ := hi
  have hw : fastResetWord s.par s.drv = 1#32 <<< n.val := by simp only [fastResetWord, hword, hoff]
  rw [exec_runfast_reset hi h hu, hw, lowHalf_offMask]

/-! ### The micro-steps of RUNDIAG -/

/-- The port of a micro-step of RUNDIAG in the port order of this hardware: A, B, C, over and over (rule R121). -/
def hardwareDiagPort (j : Nat) : Port := if j % 3 = 0 then .A else if j % 3 = 1 then .B else .C

theorem diagPort_hardware {s : State} (hpar : s.par = hardwareParams s.par.portBase) :
    diagPort s = hardwareDiagPort s.u := by
  have horder : s.par.diagOrder = ⟨.A, .B, .C⟩ := congrArg Params.diagOrder hpar
  rw [diagPort, horder]
  rfl

/-- The six micro-steps of RUNDIAG at this hardware's parameters (rule R121): the reset word clears all the output bits
of the port, and the set word, which resets none, sets them all. -/
theorem exec_rundiag_hardware {s : State} (hready : ∀ p, Ready s p) (hpar : s.par = hardwareParams s.par.portBase)
    (hu6 : s.u < 6) :
    exec .rundiag s = .next (s.afterPulse (hardwareDiagPort s.u) (if s.u < 3 then 0x0000#16 else 0xFFFF#16)
      ⟨.write, s.base (hardwareDiagPort s.u) + (if s.u < 3 then 0x14#32 else 0x10#32), 0x0000FFFF#32⟩
      (if s.u = 5 then 0 else s.u + 1)) := by
  have hrst : s.par.diagResetWord = 0x0000FFFF#32 := congrArg Params.diagResetWord hpar
  have hset : s.par.diagSetWord = 0x0000FFFF#32 := congrArg Params.diagSetWord hpar
  have hmode : s.par.bsrConflict = .setWins := congrArg Params.bsrConflict hpar
  obtain ⟨hresetPhase, hsetPhase⟩ := rundiagWithAnyParameters s hready hu6
  rw [← diagPort_hardware hpar]
  by_cases hu : s.u < 3
  · have hlast : s.u ≠ 5 := by omega
    have hbits (old : Half) : old &&& ~~~((0x0000FFFF#32).extractLsb' 0 16) = 0x0000#16 := BitVec.and_zero
    rw [hresetPhase hu, hrst, hbits, if_pos hu, if_pos hu, if_neg hlast]
    rfl
  · obtain ⟨odata, draws, hexec, hodata, -⟩ := hsetPhase (by omega)
    obtain ⟨rfl, rfl⟩ := hodata hmode
    have hbits (old : Half) : (old &&& ~~~((0x0000FFFF#32).extractLsb' 16 16)) ||| (0x0000FFFF#32).extractLsb' 0 16 =
        0xFFFF#16 := BitVec.or_allOnes
    rw [hexec, hset, hbits, if_neg hu, if_neg hu]
    rfl

/-- Settles O49: the state after the pulse, written out. -/
theorem rundiagMicroSteps : Obligations.RundiagMicroSteps :=
  ⟨decodeOfEncode .rundiag, fun _ hready hpar hu6 => exec_rundiag_hardware hready hpar hu6⟩

/-! ### RUNFAST for ever -/

/-- The transaction of each micro-step of RUNFAST, counted from the start (rules R120, R123). -/
def fastWrite (base : Word) (n : Pin) (j : Nat) : Transaction :=
  ⟨.write, base + (if j % 2 = 0 then 0x14#32 else 0x10#32), 1#32 <<< n.val⟩

/-- The two micro-steps of RUNFAST in one equation: micro-step 0 gives the pin the bit 0, micro-step 1 the bit 1. -/
theorem exec_runfast_pulse {s : State} {p : Port} {n : Pin} (hi : InitedFor s p n) (h : Ready s p)
    (hword : s.par.fastResetWord = .offMask) {k : Nat} (hu : s.u = k % 2) :
    exec .runfast s = .next (s.afterPulse p (pinWritten (s.block p).odata n ((k + 1) % 2 == 0))
      (fastWrite (s.base p) n k) ((k + 1) % 2)) := by
  obtain ⟨-, -, hsteps⟩ := runfastMicroSteps
  obtain ⟨hreset, hset⟩ := hsteps s p n hi h hword
  rcases Nat.mod_two_eq_zero_or_one k with hk | hk
  · have hnext : (k + 1) % 2 = 1 := by omega
    rw [hreset (hu.trans hk), ← pinWritten_false, fastWrite, hnext, if_pos hk]
    rfl
  · have hnext : (k + 1) % 2 = 0 := by omega
    rw [hset (hu.trans hk), ← pinWritten_true, fastWrite, hnext, if_neg (by omega)]
    rfl

/-- The levels after `k` micro-steps of RUNFAST: the pin low after an odd number and high after an even one, every other
output bit as it was. -/
def Toggled (s : State) (p : Port) (n : Pin) (k : Nat) (t : State) : Prop :=
  (0 < k → t.outputBit p n = (k % 2 == 0)) ∧ ∀ q m, (q, m) ≠ (p, n) → t.outputBit q m = s.outputBit q m

theorem Toggled.pulse {s t : State} {p : Port} {n : Pin} {k : Nat} (h : Toggled s p n k t) (x : Transaction) (u : Nat) :
    Toggled s p n (k + 1) (t.afterPulse p (pinWritten (t.block p).odata n ((k + 1) % 2 == 0)) x u) := by
  obtain ⟨-, hothers⟩ := h
  have hbits := fun q m => State.withOdata_outputBit t p q (pinWritten (t.block p).odata n ((k + 1) % 2 == 0)) m
  refine ⟨fun _ => (hbits p n).trans ?_, fun q m hne => (hbits q m).trans ?_⟩
  · rw [if_pos rfl, pinWritten_getLsbD, if_pos rfl]
  · rw [← hothers q m hne]
    split
    · next hq =>
      subst hq
      rw [pinWritten_getLsbD, if_neg fun hm => hne (by rw [hm])]
      rfl
    · rfl

/-- Settles O48: every micro-step of RUNFAST is a pulse that goes on with the loop and toggles the pin. -/
theorem runfastTogglesForever : Obligations.RunfastTogglesForever := by
  intro s p n hi h hword hu k
  obtain ⟨t, hrun, hloop, htoggled, hothers⟩ := micro_reaches (i := .runfast)
    (P := fun k t => LoopRun s (fastWrite (s.base p) n) 2 k t ∧ Toggled s p n k t)
    ⟨.start hu _ 2, fun hk => absurd hk (Nat.lt_irrefl 0), fun _ _ _ => rfl⟩
    (fun k t ⟨hloop, htoggled⟩ => by
      have hbase := hloop.base p
      have hi' : InitedFor t p n := by rwa [InitedFor, hloop.drv, hbase]
      have hexec := exec_runfast_pulse hi' (hloop.ready p h) (by rw [hloop.par, hword]) hloop.u
      exact ⟨_, hexec, hloop.pulse p _ (by rw [hbase]) rfl, htoggled.pulse _ _⟩) k
  exact ⟨t, hrun, hloop.cp, hloop.u, hloop.drv, hloop.trace, htoggled, hothers, hloop.slots⟩

/-! ### RUNDIAG for ever -/

/-- The transaction of each micro-step of RUNDIAG in a machine with these bases, counted from the start (rules R121,
R123). -/
def diagTransaction (bases : Bases) (j : Nat) : Transaction :=
  ⟨.write, bases.get (hardwareDiagPort j) + (if j % 6 < 3 then 0x14#32 else 0x10#32), 0x0000FFFF#32⟩

/-- The six micro-steps of RUNDIAG in one equation. -/
theorem exec_rundiag_pulse {s : State} (hready : ∀ p, Ready s p) (hpar : s.par = hardwareParams s.par.portBase)
    {k : Nat} (hu : s.u = k % 6) :
    exec .rundiag s = .next (s.afterPulse (hardwareDiagPort k) (if k % 6 < 3 then 0x0000#16 else 0xFFFF#16)
      (diagTransaction s.par.portBase k) ((k + 1) % 6)) := by
  have hport : hardwareDiagPort s.u = hardwareDiagPort k := by
    have hmod : s.u % 3 = k % 3 := by omega
    rw [hardwareDiagPort, hmod, hardwareDiagPort]
  have hnext : (if s.u = 5 then 0 else s.u + 1) = (k + 1) % 6 := by split <;> omega
  rw [exec_rundiag_hardware hready hpar (by omega), hport, hnext, hu]
  rfl

/-- Settles O51: every micro-step of RUNDIAG is a pulse that goes on with the loop. -/
theorem rundiagPatternForever : Obligations.RundiagPatternForever := by
  intro s hready hpar hu k
  obtain ⟨t, hrun, hloop⟩ := micro_reaches (i := .rundiag)
    (P := LoopRun s (diagTransaction s.par.portBase) 6) (.start hu _ 6)
    (fun k t hloop => by
      have hexec := exec_rundiag_pulse (fun p => hloop.ready p (hready p)) (by rw [hloop.par]; exact hpar) hloop.u
      exact ⟨_, hexec, hloop.pulse _ _ (by rw [hloop.par]) rfl⟩) k
  exact ⟨t, hrun, hloop.cp, hloop.u, hloop.drv, hloop.trace, hloop.slots⟩

end Sys2Proof.Machine

/-! SUPPORT. Where the driver stops (rules R130 to R135): the reports of the checked variant, and, once for every
command under the invariant, all the outcomes of a micro-step, from which progress and the named reasons both follow. -/

namespace Sys2Proof.Machine

/-! ### The checked variant -/

/-- With `CHECKED` true, a condition that the source reports has no effect but its report (rule R135). -/
theorem misuse_checked {s : State} (h : s.par.checked = true) (f : Fault) (r : Report) :
    misuse f r s = .next (s.complete (.reported r)) := if_pos h

theorem whenInited_reported {s : State} (hinited : s.drv.inited = false) (h : s.par.checked = true)
    (k : Attempt State) : whenInited s k = .next (s.complete (.reported .driverNotInitialized)) := by
  rw [whenInited, hinited]
  exact misuse_checked h _ _

/-- SETON and SETOFF before INIT, in the checked variant (rules R111, R112, R135). -/
theorem exec_levelInstr_reported {s : State} (hu : s.u = 0) (hinited : s.drv.inited = false)
    (h : s.par.checked = true) (b : Bool) :
    exec (levelInstr b) s = .next (s.complete (.reported .driverNotInitialized)) := by
  rw [exec_levelInstr_eq, levelCommand, oneMicroStep, if_pos hu, whenInited_reported hinited h]

/-- Settles O45: the pin check and the check for INIT end in the report, the port and the PinConfig check in the
fault. -/
theorem checkedVariantReports : Obligations.CheckedVariantReports := by
  refine ⟨rfl, fun s p n port pin cfg hu hchecked => ⟨fun hpin => ⟨?_, ?_⟩, fun hinited => ⟨?_, ?_, ?_⟩,
    fun hport => ⟨withPort_illegal hport _, withPort_illegal hport _, withPort_illegal hport _⟩,
    fun hcfg => ⟨?_, ?_⟩⟩⟩
  · show execCfgpin p.code pin cfg s = _
    rw [execCfgpin, withPort_code, withPin_illegal hpin, misuse_checked hchecked]
    rfl
  · show execInit p.code pin s = _
    rw [execInit, withPort_code, withPin_illegal hpin, misuse_checked hchecked]
    rfl
  · exact exec_levelInstr_reported hu hinited hchecked false
  · exact exec_levelInstr_reported hu hinited hchecked true
  · show execRunfast s = _
    simp only [execRunfast, hu, whenInited_reported hinited hchecked]
    rfl
  · show execCfgpin p.code (BitVec.ofNat 8 n.val) cfg s = _
    rw [execCfgpin, withPort_code, withPin_val, withCfg_illegal hcfg]
  · show execCfgall p.code cfg s = _
    rw [execCfgall, withPort_code, withCfg_illegal hcfg]

/-! ### The outcomes of a command, and the checks that give them -/

/-- The outcomes that the spec names for a micro-step of the command `i`: a next state, the four faults of rule R131,
each with its cause, and the refusals of rules R88, R91 and R95. -/
inductive NamedOutcome (i : Instr) (s : State) : Attempt State → Prop where
  | next (t : State) : NamedOutcome i s (.next t)
  | invalidBase {port : Byte} (hport : i.port? = some port) (h : 2 < port.toNat) :
      NamedOutcome i s (.fault (.invalidBase port))
  | pinOutOfRange {pin : Byte} (hpin : i.pin? = some pin) (h : 15 < pin.toNat) :
      NamedOutcome i s (.fault (.pinOutOfRange pin))
  | configOutOfRange {cfg : Byte} (hcfg : i.cfg? = some cfg) (h : 15 < cfg.toNat) :
      NamedOutcome i s (.fault (.configOutOfRange cfg))
  | notInitialized (hneeds : i.needsInit = true) (h : s.drv.inited = false) :
      NamedOutcome i s (.fault .notInitialized)
  | refused {r : Refusal} (h : refusedBySpec i = true) (hr : r = .lockNotModelled ∨ r = .writeToInputData) :
      NamedOutcome i s (.refused r)

section
variable {i : Instr} {s : State}

/-- A computation that cannot stop, with a pure one after it, is a next state. -/
theorem NamedOutcome.of_andThen {α : Type} {o : Attempt α} (h : ∃ a, o = .next a) (f : α → State) :
    NamedOutcome i s (andThen o fun a => .next (f a)) := by
  obtain ⟨a, rfl⟩ := h
  exact .next _

theorem NamedOutcome.of_misuse {f : Fault} (h : NamedOutcome i s (.fault f)) (r : Report) :
    NamedOutcome i s (misuse f r s) := by
  unfold misuse
  split
  · exact .next _
  · exact h

theorem NamedOutcome.of_withPort {port : Byte} {k : Port → Attempt State} (hport : i.port? = some port)
    (h : ∀ p : Port, port = p.code → NamedOutcome i s (k p)) : NamedOutcome i s (withPort port k) := by
  rcases portOf_cases port with ⟨p, rfl, -⟩ | ⟨hillegal, -⟩
  · rw [withPort_code]
    exact h p rfl
  · rw [withPort_illegal hillegal]
    exact .invalidBase hport hillegal

theorem NamedOutcome.of_withPin {pin : Byte} {k : Pin → Attempt State} (hpin : i.pin? = some pin)
    (h : ∀ n, NamedOutcome i s (k n)) : NamedOutcome i s (withPin pin s k) := by
  unfold withPin
  split
  · exact h _
  · exact .of_misuse (.pinOutOfRange hpin (toNat_of_pinOf_eq_none ‹_›)) _

theorem NamedOutcome.of_withCfg {cfg : Byte} {k : Nibble → Attempt State} (hcfg : i.cfg? = some cfg)
    (h : ∀ c, NamedOutcome i s (k c)) : NamedOutcome i s (withCfg cfg k) := by
  rcases Nat.lt_or_ge 15 cfg.toNat with hillegal | hlegal
  · rw [withCfg_illegal hillegal]
    exact .configOutOfRange hcfg hillegal
  · rw [withCfg, cfgOf, if_pos (by omega)]
    exact h _

theorem NamedOutcome.of_whenInited {k : Attempt State} (hneeds : i.needsInit = true)
    (h : s.drv.inited = true → NamedOutcome i s k) : NamedOutcome i s (whenInited s k) := by
  unfold whenInited
  split
  · exact h ‹_›
  · exact .of_misuse (.notInitialized hneeds (Bool.eq_false_iff.mpr ‹_›)) _

/-- A command of one micro-step is at that micro-step, so it runs. -/
theorem NamedOutcome.of_oneMicroStep {k : Attempt State} (hu : s.u < 1) (h : NamedOutcome i s k) :
    NamedOutcome i s (oneMicroStep s k) := by
  rw [oneMicroStep, if_pos (Nat.lt_one_iff.mp hu)]
  exact h

end

/-! ### The bus under the invariant -/

theorem Inv.ready {s : State} (h : Inv s) (p : Port) : Ready s p := ⟨h.bases, h.live p⟩

/-- The read rule of every register but LOCK gives a value (rules R13 to R21). -/
theorem readReg_answers {r : Reg} (h : r ≠ .lock) (p : Port) (s : State) : ∃ a, readReg p r s = .next a := by
  cases r with
  | lock => exact absurd rfl h
  | cfglo | cfghi | idata | odata | setrst | rstonly => exact ⟨_, rfl⟩

/-- The registers whose write the spec gives a meaning: all but IDATA and LOCK (rules R20, R21). -/
def Writable (r : Reg) : Prop := r ≠ .idata ∧ r ≠ .lock

theorem writable_setrst : Writable .setrst := ⟨nofun, nofun⟩

theorem writable_rstonly : Writable .rstonly := ⟨nofun, nofun⟩

theorem writeReg_answers {r : Reg} (h : Writable r) (p : Port) (v : Word) (s : State) :
    ∃ t, writeReg p r v s = .next t := by
  cases r with
  | idata => exact absurd rfl h.1
  | lock => exact absurd rfl h.2
  | cfglo | cfghi | odata | setrst | rstonly => exact ⟨_, rfl⟩

theorem busRead_answers {s : State} {p : Port} {r : Reg} (h : Ready s p) (hr : r ≠ .lock) :
    ∃ a, busRead (regAddress (s.base p) r) s = .next a := by
  obtain ⟨a, ha⟩ := readReg_answers hr p s
  rw [busRead_ready h, ha]
  exact ⟨_, rfl⟩

theorem busWrite_answers {s : State} {p : Port} {r : Reg} {ref : Word} (h : Ready s p) (href : ref = s.base p)
    (hr : Writable r) (v : Word) : ∃ t, busWrite (regAddress ref r) v s = .next t := by
  obtain ⟨t, ht⟩ := writeReg_answers hr p v s
  rw [href, busWrite_ready h, ht]
  exact ⟨_, rfl⟩

/-- The stored reference of an initialised driver reaches every writable register of its port. -/
theorem Inv.busWrite_ref {s : State} (h : Inv s) (hinited : s.drv.inited = true) {r : Reg} (hr : Writable r)
    (v : Word) : ∃ t, busWrite (regAddress s.drv.ref r) v s = .next t := by
  obtain ⟨⟨p, href⟩, -⟩ := h.driver hinited
  exact busWrite_answers (h.ready p) href hr v

/-! ### The outcomes of each command under the invariant -/

section
variable {i : Instr} {s : State}

theorem readCommand_namedOutcome {r : Reg} {port : Byte} (hs : Inv s) (hu : s.u < 1) (hport : i.port? = some port)
    (hr : r ≠ .lock) : NamedOutcome i s (readCommand r port s) :=
  .of_oneMicroStep hu <| .of_withPort hport fun p _ => .of_andThen (busRead_answers (hs.ready p) hr) _

theorem writeCommand_namedOutcome {r : Reg} {port : Byte} {w : Word} (hs : Inv s) (hu : s.u < 1)
    (hport : i.port? = some port) (hr : Writable r) : NamedOutcome i s (writeCommand r port w s) :=
  .of_oneMicroStep hu <| .of_withPort hport fun p _ => .of_andThen (busWrite_answers (hs.ready p) rfl hr w) _

theorem refusedCommand_namedOutcome {reason : Refusal} {port : Byte} (hu : s.u < 1) (hport : i.port? = some port)
    (hi : refusedBySpec i = true) (hreason : reason = .lockNotModelled ∨ reason = .writeToInputData) :
    NamedOutcome i s (refusedCommand reason port s) :=
  .of_oneMicroStep hu <| .of_withPort hport fun _ _ => .refused hi hreason

theorem levelCommand_namedOutcome {word : Word} (hs : Inv s) (hu : s.u < 1) (hneeds : i.needsInit = true) :
    NamedOutcome i s (levelCommand word s) :=
  .of_oneMicroStep hu <| .of_whenInited hneeds fun hinited =>
    .of_andThen (hs.busWrite_ref hinited writable_setrst word) _

/-- A command of two micro-steps never meets the arm for the others (log entry 14). -/
theorem no_third_microStep {u : Nat} (hu : u < 2) (hfirst : ¬ u = 0) (hsecond : ¬ u = 1) : False := by omega

theorem execCfgpin_namedOutcome {port pin cfg : Byte} (hs : Inv s) (hu : s.u < 2) :
    NamedOutcome (.cfgpin port pin cfg) s (execCfgpin port pin cfg s) := by
  refine .of_withPort rfl fun p _ => .of_withPin rfl fun n => .of_withCfg rfl fun c => ?_
  split
  · rw [slotRead_ready (hs.ready p)]
    exact .next _
  · exact .of_andThen ⟨_, slotWrite_ready (hs.ready p) n c⟩ _
  · next hfirst hsecond => exact (no_third_microStep hu hfirst hsecond).elim

theorem execCfgall_namedOutcome {port cfg : Byte} (hs : Inv s) (hu : s.u < 32) :
    NamedOutcome (.cfgall port cfg) s (execCfgall port cfg s) := by
  refine .of_withPort rfl fun p _ => .of_withCfg rfl fun c => ?_
  rw [if_neg (by omega)]
  split
  · rw [slotRead_ready (hs.ready p)]
    exact .next _
  · exact .of_andThen ⟨_, slotWrite_ready (hs.ready p) _ c⟩ _

/-- The write of INIT is made with the reference that its read has stored (rule R110). -/
theorem execInit_namedOutcome {port pin : Byte} (hs : Inv s) (hcur : s.current = some (.initPin port pin))
    (hu : s.u < 2) : NamedOutcome (.initPin port pin) s (execInit port pin s) := by
  refine .of_withPort rfl fun p _ => .of_withPin rfl fun n => ?_
  split
  · have hread := slotRead_ready (State.select_ready (hs.ready p) (s.base p)) n
    rw [State.select_base] at hread
    rw [hread]
    exact .next _
  · obtain ⟨q, -, href⟩ := hs.midInit port pin hcur ‹_›
    rw [href]
    exact .of_andThen ⟨_, slotWrite_ready (hs.ready q) n defaultCfg⟩ _
  · next hfirst hsecond => exact (no_third_microStep hu hfirst hsecond).elim

/-- The second micro-step of RUNFAST makes no check, and needs none (rule R120). -/
theorem execRunfast_namedOutcome (hs : Inv s) (hcur : s.current = some .runfast) (hu : s.u < 2) :
    NamedOutcome .runfast s (execRunfast s) := by
  unfold execRunfast
  split
  · exact .of_whenInited rfl fun hinited => .of_andThen (hs.busWrite_ref hinited writable_rstonly _) _
  · exact .of_andThen (hs.busWrite_ref (hs.midFast hcur ‹_›) writable_setrst _) _
  · next hfirst hsecond => exact (no_third_microStep hu hfirst hsecond).elim

theorem execRundiag_namedOutcome (hs : Inv s) (hu : s.u < 6) : NamedOutcome .rundiag s (execRundiag s) := by
  rcases Nat.lt_or_ge s.u 3 with hreset | hset
  · rw [execRundiag_resetPhase hreset]
    exact .of_andThen (busWrite_answers (hs.ready _) rfl writable_rstonly _) _
  · rw [execRundiag_setPhase hset hu]
    exact .of_andThen (busWrite_answers (hs.ready _) rfl writable_setrst _) _

/-- Under the invariant, every micro-step of the current command has one of the outcomes that the spec names. -/
theorem exec_namedOutcome (hs : Inv s) (hcur : s.current = some i) : NamedOutcome i s (exec i s) := by
  have hu := hs.microStep i hcur
  cases i with
  | atPort _ => exact .of_oneMicroStep hu <| .of_withPort rfl fun _ _ => .next _
  | rdCfglo _ | rdCfghi _ | rdIdata _ | rdOdata _ | rdSetrst _ | rdRstonly _ =>
    exact readCommand_namedOutcome hs hu rfl nofun
  | wrCfglo _ _ | wrCfghi _ _ | wrOdata _ _ | wrSetrst _ _ | wrRstonly _ _ =>
    exact writeCommand_namedOutcome hs hu rfl ⟨nofun, nofun⟩
  | rdLock _ | wrLock _ _ => exact refusedCommand_namedOutcome hu rfl rfl (.inl rfl)
  | wrIdata _ _ => exact refusedCommand_namedOutcome hu rfl rfl (.inr rfl)
  | cfgpin _ _ _ => exact execCfgpin_namedOutcome hs hu
  | cfgall _ _ => exact execCfgall_namedOutcome hs hu
  | initPin _ _ => exact execInit_namedOutcome hs hcur hu
  | seton | setoff => exact levelCommand_namedOutcome hs hu rfl
  | runfast => exact execRunfast_namedOutcome hs hcur hu
  | rundiag => exact execRundiag_namedOutcome hs hu

end

/-! ### The steps of the driver -/

/-- At the driver's turn the current command runs; without one, the stream has ended or the control word is reserved
(rules R25, R132). -/
theorem step_driver_cases {s : State} (hturns : s.turns = []) :
    (∃ i, s.current = some i ∧ step s = exec i s) ∨ (s.current = none ∧
      ((s.stream[s.cp]? = none ∧ step s = .refused .endOfStream) ∨
        ∃ c, s.stream[s.cp]? = some c ∧ step s = .refused (.illegalCommand c.cw))) := by
  obtain ⟨hend, hreserved⟩ := stepStopsAtStreamEndAndReservedWords s hturns
  cases hc : s.stream[s.cp]? with
  | none => exact .inr ⟨by simp [State.current, State.fetch, hc], .inl ⟨rfl, hend hc⟩⟩
  | some c =>
    cases hd : decode c with
    | ok i => exact .inl ⟨i, by simp [State.current, State.fetch, hc, hd],
        (stepRunsDecodedInstruction s c i hc hd).1 hturns⟩
    | error e => exact .inr ⟨by simp [State.current, State.fetch, hc, hd], .inr ⟨c, rfl, hreserved c e hc hd⟩⟩

/-- What legal operands mean for each field (rules R71, R131). -/
theorem Instr.wellFormed_iff {i : Instr} : i.wellFormed = true ↔
    (∀ port, i.port? = some port → port.toNat < 3) ∧ (∀ pin, i.pin? = some pin → pin.toNat < 16) ∧
      ∀ cfg, i.cfg? = some cfg → cfg.toNat < 16 := by
  simp [Instr.wellFormed, legalPort, legalPin, legalCfg, Option.all_eq_true, and_assoc]

/-- No stop of a named outcome has its cause in a legal command that the spec does not refuse. -/
theorem NamedOutcome.next_of_legal {i : Instr} {s : State} {o : Attempt State} (h : NamedOutcome i s o)
    (hwf : i.wellFormed = true) (hspec : refusedBySpec i = false) (hinit : i.needsInit = true → s.drv.inited = true) :
    ∃ t, o = .next t := by
  obtain ⟨hport, hpin, hcfg⟩ := Instr.wellFormed_iff.mp hwf
  cases h with
  | next t => exact ⟨t, rfl⟩
  | invalidBase hi hillegal => have := hport _ hi; omega
  | pinOutOfRange hi hillegal => have := hpin _ hi; omega
  | configOutOfRange hi hillegal => have := hcfg _ hi; omega
  | notInitialized hneeds hinited => exact absurd (hinit hneeds) (by simp [hinited])
  | refused hi => exact absurd hi (by simp [hspec])

/-- Settles O58: the current command runs, and its outcome is none of the stops. -/
theorem legalCommandsNeverStop : Obligations.LegalCommandsNeverStop := by
  intro s i hs hturns hcur hwf hspec hinit
  rcases step_driver_cases hturns with ⟨j, hj, hstep⟩ | ⟨hnone, -⟩
  · obtain rfl : i = j := Option.some.inj (hcur.symm.trans hj)
    rw [hstep]
    exact (exec_namedOutcome hs hcur).next_of_legal hwf hspec hinit
  · exact absurd (hcur.symm.trans hnone) nofun

/-- Settles O59: with a current command, its outcome is named; without one, the step is refused. -/
theorem driverStopsOnlyForNamedReasons : Obligations.DriverStopsOnlyForNamedReasons := by
  intro s hs hturns
  rcases step_driver_cases hturns with ⟨i, hcur, hstep⟩ | ⟨hnone, ⟨hend, hstep⟩ | ⟨c, hc, hstep⟩⟩
  · have hnamed := exec_namedOutcome hs hcur
    rw [← hstep] at hnamed
    refine ⟨fun f hf => ⟨i, hcur, ?_⟩, fun r hr => .inr (.inr ⟨i, hcur, ?_⟩)⟩
    · rw [hf] at hnamed
      cases hnamed with
      | invalidBase hport h => exact .inl ⟨_, hport, h, rfl⟩
      | pinOutOfRange hpin h => exact .inr (.inl ⟨_, hpin, h, rfl⟩)
      | configOutOfRange hcfg h => exact .inr (.inr (.inl ⟨_, hcfg, h, rfl⟩))
      | notInitialized hneeds h => exact .inr (.inr (.inr ⟨hneeds, h, rfl⟩))
    · rw [hr] at hnamed
      cases hnamed with
      | refused h hreason => exact ⟨h, hreason⟩
  · rw [hstep]
    refine ⟨nofun, fun r hr => .inl ⟨hend, ?_⟩⟩
    cases hr
    rfl
  · rw [hstep]
    refine ⟨nofun, fun r hr => .inr (.inl ⟨c, hc, hnone, ?_⟩)⟩
    cases hr
    rfl

end Sys2Proof.Machine

/-! SUPPORT. The mark that INIT has completed, after reset (rule R150): INIT is the only command that writes the mark, it
never clears it, and the other agent does not reach the driver. -/

namespace Sys2Proof.Machine

/-- INIT keeps the mark with its report and with its read, and sets it when it completes (rule R110). -/
theorem execInit_keeps_inited {port pin : Byte} {s t : State} (h : execInit port pin s = .next t)
    (hinited : s.drv.inited = true) : t.drv.inited = true := by
  obtain ⟨p, -, ⟨-, hrep⟩ | ⟨n, -, ⟨-, v, s', hr, rfl⟩ | ⟨-, s', -, rfl⟩⟩⟩ := execInit_next h
  · rwa [hrep.drv]
  · rwa [State.goto_drv, State.latch_drv, hr.drv, State.select_drv]
  · rw [State.complete_drv, State.storeMasks_drv]

theorem exec_keeps_inited {i : Instr} {s t : State} (h : exec i s = .next t) (hinited : s.drv.inited = true) :
    t.drv.inited = true := by
  by_cases hinit : ∃ port pin, i = .initPin port pin
  · obtain ⟨port, pin, rfl⟩ := hinit
    exact execInit_keeps_inited h hinited
  · obtain ⟨-, -, -, hsame⟩ := onlyInitWritesTheStoredReference i s t h fun port pin hi => hinit ⟨port, pin, hi⟩
    exact hsame.trans hinited

/-- Settles O19: neither a micro-step of the driver nor an event of the other agent clears the mark. -/
theorem noStepUninitialisesTheDriver : Obligations.NoStepUninitialisesTheDriver := by
  intro s t h hinited
  obtain ⟨i, -, hexec⟩ | ⟨e, rest, hturns, -⟩ := step_next h
  · exact exec_keeps_inited hexec hinited
  · obtain ⟨hdrv, -⟩ := otherAgentLeavesTheDriver s t e rest hturns h
    rwa [hdrv]

end Sys2Proof.Machine
